-- ==== Sys2Proof/Word.lean ====
section
/-! DEFINITION. The word types of the core and the two extensions of R17 on them. -/

namespace Sys2Proof

/-- A 32-bit register, address or instruction word (R15). -/
abbrev Word := BitVec 32

/-- A 64-bit double or long view of a pair of float words (R34). -/
abbrev DWord := BitVec 64

/-- The unit of memory (R61). -/
abbrev Byte := BitVec 8

/-- A 5-bit register field of an instruction word (R21, R92). -/
abbrev Reg := BitVec 5

end Sys2Proof
end

