-- ==== Sys2Proof/Machine/FloatArith.lean ====
section
/-! DEFINITION. Binary floating point on encodings (R281 to R283): unpack exactly, compute exactly, round once to nearest
even. An encoding is a Nat below 2 ^ (1 + expBits + fracBits). A result `none` is a NaN, whose encoding is a draw (R282). -/

namespace Sys2Proof.Machine

/-- A binary interchange format. -/
structure FloatFmt where
  expBits : Nat
  fracBits : Nat
  deriving DecidableEq, Repr

/-- IEEE 754 binary32, the format of `.s` (R33). -/
def FloatFmt.single : FloatFmt := { expBits := 8, fracBits := 23 }

/-- IEEE 754 binary64, the format of `.d` (R34). -/
def FloatFmt.double : FloatFmt := { expBits := 11, fracBits := 52 }

/-- The exponent field of infinities and NaNs: all ones. -/
def FloatFmt.maxExp (f : FloatFmt) : Nat := 2 ^ f.expBits - 1

/-- The exponent of the least subnormal: every finite value of the format is a multiple of 2 ^ minQuantum. -/
def FloatFmt.minQuantum (f : FloatFmt) : Int := 2 - 2 ^ (f.expBits - 1) - f.fracBits

/-- The weight of the sign bit. -/
def FloatFmt.signBit (f : FloatFmt) : Nat := 2 ^ (f.expBits + f.fracBits)

/-- The encoding of a magnitude under a sign. -/
def FloatFmt.signed (f : FloatFmt) (neg : Bool) (magnitude : Nat) : Nat :=
  if neg then f.signBit + magnitude else magnitude

/-- The magnitude of an infinity. -/
def FloatFmt.infMagnitude (f : FloatFmt) : Nat := f.maxExp * 2 ^ f.fracBits

/-- What an encoding denotes: `fin neg m e` is (-1)^neg * m * 2^e. -/
inductive FloatVal
  | nan
  | inf (neg : Bool)
  | fin (neg : Bool) (m : Nat) (e : Int)
  deriving DecidableEq, Repr

/-- The value of an encoding: subnormals are kept (R281). -/
def FloatFmt.unpack (f : FloatFmt) (bits : Nat) : FloatVal :=
  let frac := bits % 2 ^ f.fracBits
  let ex := bits / 2 ^ f.fracBits % 2 ^ f.expBits
  let neg := bits / f.signBit % 2 == 1
  if ex = f.maxExp then (if frac = 0 then .inf neg else .nan)
  else if ex = 0 then .fin neg frac f.minQuantum
  else .fin neg (2 ^ f.fracBits + frac) (f.minQuantum + (ex - 1 : Nat))

/-- `n / d` to the nearest integer, a tie to the even one. -/
def divNearestEven (n d : Nat) : Nat :=
  let q := n / d
  let r := n % d
  if d < 2 * r then q + 1 else if 2 * r < d then q else if q % 2 = 0 then q else q + 1

/-- `m * 2 ^ k` where that is an integer, as the numerator of a fraction whose denominator is `pow2Den k`. -/
def pow2Num (m : Nat) (k : Int) : Nat := if 0 ≤ k then m * 2 ^ k.toNat else m

/-- The denominator that goes with `pow2Num`. -/
def pow2Den (k : Int) : Nat := if 0 ≤ k then 1 else 2 ^ (-k).toNat

/-- The floor of log2 of the positive fraction `n / d`. -/
def floorLog2 (n d : Nat) : Int :=
  let k : Int := (Nat.log2 n : Int) - Nat.log2 d
  if pow2Den k * n < pow2Num d k then k - 1 else k

/-- The quantum a fraction is rounded to: its last kept bit, never below the least subnormal's. -/
def FloatFmt.quantum (f : FloatFmt) (n d : Nat) : Int :=
  max (floorLog2 n d - f.fracBits) f.minQuantum

/-- The magnitude encoding of `mant * 2 ^ q`, for a rounded `mant` of at most `fracBits + 2` bits: a carry out of the
significand moves into the exponent field by itself. Overflow gives an infinity (R281). -/
def FloatFmt.pack (f : FloatFmt) (mant : Nat) (q : Int) : Nat :=
  min ((q - f.minQuantum).toNat * 2 ^ f.fracBits + mant) f.infMagnitude

/-- The fraction `n / d` rounded to nearest even (R281), under a sign. A zero keeps the sign. -/
def FloatFmt.roundFrac (f : FloatFmt) (neg : Bool) (n d : Nat) : Nat :=
  if n = 0 then f.signed neg 0
  else
    let q := f.quantum n d
    f.signed neg (f.pack (divNearestEven (n * pow2Den q) (pow2Num d q)) q)

/-- `m * 2 ^ e` rounded to nearest even, under a sign. -/
def FloatFmt.round (f : FloatFmt) (neg : Bool) (m : Nat) (e : Int) : Nat :=
  f.roundFrac neg (pow2Num m e) (pow2Den e)

/-- An exact integer rounded to the format: the conversions from `.w` and `.l` (R312 to R315). -/
def FloatFmt.ofInt (f : FloatFmt) (i : Int) : Nat :=
  f.roundFrac (decide (i < 0)) i.natAbs 1

/-- A signed significand moved to the exponent `e0`, which is at most its own. -/
def alignTo (neg : Bool) (m : Nat) (e e0 : Int) : Int :=
  let v : Int := (m * 2 ^ (e - e0).toNat : Nat)
  if neg then -v else v

/-- The exact sum of two values (R281): an exact zero is +0 unless both operands are negative. -/
def FloatFmt.addVal (f : FloatFmt) : FloatVal → FloatVal → Option Nat
  | .nan, _ => none
  | _, .nan => none
  | .inf na, .inf nb => if na = nb then some (f.signed na f.infMagnitude) else none
  | .inf na, .fin _ _ _ => some (f.signed na f.infMagnitude)
  | .fin _ _ _, .inf nb => some (f.signed nb f.infMagnitude)
  | .fin na ma ea, .fin nb mb eb =>
    let e0 := min ea eb
    let sum := alignTo na ma ea e0 + alignTo nb mb eb e0
    if sum = 0 then some (f.signed (na && nb) 0)
    else some (f.round (decide (sum < 0)) sum.natAbs e0)

/-- The value with its sign flipped. -/
def FloatVal.neg : FloatVal → FloatVal
  | .nan => .nan
  | .inf n => .inf (!n)
  | .fin n m e => .fin (!n) m e

/-- `add.fmt` (R290, R298). -/
def FloatFmt.add (f : FloatFmt) (a b : Nat) : Option Nat := f.addVal (f.unpack a) (f.unpack b)

/-- `sub.fmt` (R291, R299). -/
def FloatFmt.sub (f : FloatFmt) (a b : Nat) : Option Nat := f.addVal (f.unpack a) (f.unpack b).neg

/-- The exact product of two values: the sign is the exclusive or of the signs, `0 * inf` is a NaN (R292). -/
def FloatFmt.mulVal (f : FloatFmt) : FloatVal → FloatVal → Option Nat
  | .nan, _ => none
  | _, .nan => none
  | .inf na, .inf nb => some (f.signed (na != nb) f.infMagnitude)
  | .inf na, .fin nb mb _ => if mb = 0 then none else some (f.signed (na != nb) f.infMagnitude)
  | .fin na ma _, .inf nb => if ma = 0 then none else some (f.signed (na != nb) f.infMagnitude)
  | .fin na ma ea, .fin nb mb eb => some (f.round (na != nb) (ma * mb) (ea + eb))

/-- `mul.fmt` (R292, R300). -/
def FloatFmt.mul (f : FloatFmt) (a b : Nat) : Option Nat := f.mulVal (f.unpack a) (f.unpack b)

/-- The exact quotient of two values: a finite nonzero value over zero is an infinity, `0/0` and `inf/inf` are NaNs
(R281, R282, R293). -/
def FloatFmt.divVal (f : FloatFmt) : FloatVal → FloatVal → Option Nat
  | .nan, _ => none
  | _, .nan => none
  | .inf _, .inf _ => none
  | .inf na, .fin nb _ _ => some (f.signed (na != nb) f.infMagnitude)
  | .fin na _ _, .inf nb => some (f.signed (na != nb) 0)
  | .fin na ma ea, .fin nb mb eb =>
    if mb = 0 then (if ma = 0 then none else some (f.signed (na != nb) f.infMagnitude))
    else
      some (f.roundFrac (na != nb) (pow2Num ma ea * pow2Den eb) (pow2Num mb eb * pow2Den ea))

/-- `div.fmt` (R293, R301). -/
def FloatFmt.div (f : FloatFmt) (a b : Nat) : Option Nat := f.divVal (f.unpack a) (f.unpack b)

/-- The floor of the square root of `n`, bit by bit: `r` is a root found so far, `k` bits are left to try. -/
def isqrtFrom (n : Nat) : Nat → Nat → Nat
  | 0, r => r
  | k + 1, r =>
    let t := r + 2 ^ k
    isqrtFrom n k (if t * t ≤ n then t else r)

/-- The square root of a positive `m * 2 ^ e`: scaled to a radicand of twice the precision, so that the root has
`fracBits + 1` bits; it is nearest iff the remainder is at most the root (no tie can occur). -/
def FloatFmt.sqrtPos (f : FloatFmt) (m : Nat) (e : Int) : Nat :=
  let q := (Nat.log2 m + e) / 2 - f.fracBits
  let n := pow2Num m (e - 2 * q)
  let r := isqrtFrom n (f.fracBits + 2) 0
  f.pack (if r < n - r * r then r + 1 else r) q

/-- The square root of a value: `sqrt(-0) = -0`, of a negative value a NaN (R281, R294). -/
def FloatFmt.sqrtVal (f : FloatFmt) : FloatVal → Option Nat
  | .nan => none
  | .inf neg => if neg then none else some f.infMagnitude
  | .fin neg m e =>
    if m = 0 then some (f.signed neg 0) else if neg then none else some (f.sqrtPos m e)

/-- `sqrt.fmt` (R294, R302). -/
def FloatFmt.sqrt (f : FloatFmt) (a : Nat) : Option Nat := f.sqrtVal (f.unpack a)

/-- The conversion between the two float formats (R306, R309): one rounding, a NaN gives a NaN. -/
def FloatFmt.convert (src dst : FloatFmt) (a : Nat) : Option Nat :=
  match src.unpack a with
  | .nan => none
  | .inf neg => some (dst.signed neg dst.infMagnitude)
  | .fin neg m e => some (dst.round neg m e)

/-- The integer a value is, where it is one (R283). -/
def FloatVal.integral? : FloatVal → Option Int
  | .fin neg m e =>
    if m % pow2Den e = 0 then
      let v : Int := (pow2Num m e / pow2Den e : Nat)
      some (if neg then -v else v)
    else none
  | .inf _ => none
  | .nan => none

/-- The integer of width `bits` that `cvt.w`/`cvt.l` write: only for a finite, integral value inside the two's complement
range (R283). -/
def FloatFmt.toInt? (f : FloatFmt) (bits : Nat) (a : Nat) : Option Int :=
  match (f.unpack a).integral? with
  | some i => if -2 ^ (bits - 1) ≤ i ∧ i < 2 ^ (bits - 1) then some i else none
  | none => none

/-- How two values compare (R316). -/
inductive FloatOrder
  | less
  | equal
  | greater
  | unordered
  deriving DecidableEq, Repr

/-- The order of two integers. -/
def orderInt (a b : Int) : FloatOrder :=
  if a < b then .less else if a = b then .equal else .greater

/-- The order of two values: a NaN is unordered with everything, zeros are equal, infinities compare by sign (R316). -/
def FloatVal.order : FloatVal → FloatVal → FloatOrder
  | .nan, _ => .unordered
  | _, .nan => .unordered
  | .inf na, .inf nb => if na = nb then .equal else if na then .less else .greater
  | .inf na, .fin _ _ _ => if na then .less else .greater
  | .fin _ _ _, .inf nb => if nb then .greater else .less
  | .fin na ma ea, .fin nb mb eb =>
    let e0 := min ea eb
    orderInt (alignTo na ma ea e0) (alignTo nb mb eb e0)

/-- The comparison of `c.cond.fmt` on encodings (R316, R317). -/
def FloatFmt.compare (f : FloatFmt) (a b : Nat) : FloatOrder := (f.unpack a).order (f.unpack b)

end Sys2Proof.Machine
end

