-- ==== Sys2Proof/Config.lean ====
section
/-! DEFINITION. What an implementation or a launch fixes: the parameters of R16, and the free values that the spec calls
draws. -/

namespace Sys2Proof.Config

/-- SLTIU_IMM (R167, D16): how `sltiu` extends its immediate. -/
inductive SltiuImm
  | zext
  | sext
  deriving DecidableEq, Repr

/-- DIV_ZERO (R158, R159, D17): what a division by zero does. -/
inductive DivZero
  | fault
  | draw
  deriving DecidableEq, Repr

/-- DIV_OVF (R158, D18): what dividing -2^31 by -1 does. -/
inductive DivOvf
  | fault
  | mips
  deriving DecidableEq, Repr

/-- CP1CTL_UNGATED (R287, R288, D19): what `cfc1`/`ctc1` do for a control register outside their gate. -/
inductive Ungated
  | noop
  | fault
  deriving DecidableEq, Repr

/-- JALR_RD_EQ_RS and LINK_RS31 (R214, R215, R223, D20, D21): what a link onto the register being read does. -/
inductive LinkClash
  | fault
  | readFirst
  deriving DecidableEq, Repr

/-- TRAP_MODE (R345, D22): whether the trap instructions test their condition. -/
inductive TrapMode
  | conditional
  | unimplemented
  deriving DecidableEq, Repr

/-- SYNC_MODE (R344, D24): what `sync` does. -/
inductive SyncMode
  | fault
  | noop
  deriving DecidableEq, Repr

/-- The operations whose results FP_ARITH, FP_NAN and FP_TO_INT give (R281 to R283), one for each instruction. -/
inductive FpOp
  | addS
  | subS
  | mulS
  | divS
  | sqrtS
  | addD
  | subD
  | mulD
  | divD
  | sqrtD
  | cvtDS
  | cvtSD
  | cvtSW
  | cvtDW
  | cvtSL
  | cvtDL
  | cvtWS
  | cvtLS
  | cvtWD
  | cvtLD
  deriving DecidableEq, Repr

/-- An operation on operands: the encodings read, a 32-bit one in the low half, `b` 0 where there is one operand. -/
structure FpCall where
  op : FpOp
  a : DWord
  b : DWord
  deriving DecidableEq, Repr

/-- Results by operation and operands, a 32-bit result in the low half. The empty table is the default. A table is plain
data and a run has finitely many operations, so the tables give every function of operation and operands that a run can
tell from another. DESIGN CHOICE (log 8). -/
abbrev FpTable := List (FpCall × DWord)

/-- The open parameters of R16 that the instructions read. A machine has one setting of each, and no step changes it. -/
structure Params where
  sltiuImm : SltiuImm
  divZero : DivZero
  divOvf : DivOvf
  cp1ctlUngated : Ungated
  jalrRdEqRs : LinkClash
  linkRs31 : LinkClash
  trapMode : TrapMode
  syncMode : SyncMode
  /-- FP_ARITH (R281, D12): results other than the default's, IEEE 754 rounded to nearest even. -/
  fpArith : FpTable
  /-- FP_NAN (R282, D13): the NaN encodings of NaN results that are not draws. -/
  fpNan : FpTable
  /-- FP_TO_INT (R283, D14): the conversions outside the exact cases that are not draws. -/
  fpToInt : FpTable
  deriving DecidableEq, Repr

/-- The default setting that 92_eei_decisions.md gives each parameter (D12 to D14, D16 to D22, D24). -/
def Params.default : Params :=
  { sltiuImm := .zext, divZero := .fault, divOvf := .fault, cp1ctlUngated := .noop,
    jalrRdEqRs := .fault, linkRs31 := .fault, trapMode := .conditional, syncMode := .fault, fpArith := [], fpNan := [],
    fpToInt := [] }

/-- The n-th free 32-bit value of a run (R158, R282, R283: "a draw"). It has no body: nothing about its value is known.
DESIGN CHOICE (log 2), safe: a statement holds whatever the draws are. -/
opaque freeWord : Nat → Word

/-- The n-th free 64-bit value of a run (R282, R283). It has no body. DESIGN CHOICE (log 2), safe. -/
opaque freeDWord : Nat → DWord

/-- LAUNCH.entry of the machine right after reset (R401). DESIGN CHOICE (log 3), unsafe: the launch is open (D9); the
spec's examples all launch here (95, "the instruction is at pc = 0x00400000"). -/
def launchEntry : Word := 0x00400000#32

end Sys2Proof.Config
end

