-- ==== Sys2Proof/Syntax.lean ====
section
/-! DEFINITION. The instructions: one constructor per row of spec/opcode_table.json (R102, R104, R105), the implemented
kinds first and the markers after them, each in the table's order. An implemented instruction carries its operand fields in
the order of its assembler syntax (R131). A marker reads no operand (R359), so its constructor has none: the word it was
decoded from is the `encoding` of its static instruction (R8). -/

namespace Sys2Proof

/-- One instruction. `Unknown` (R106) is no row of the table: it is the other leaf of the decoder. -/
inductive Instr
  /-- `nop` (R342). -/
  | nop (sa : BitVec 5)
  /-- `sll` (R140). -/
  | sll (rd rt : Reg) (sa : BitVec 5)
  /-- `srl` (R141). -/
  | srl (rd rt : Reg) (sa : BitVec 5)
  /-- `sra` (R142). -/
  | sra (rd rt : Reg) (sa : BitVec 5)
  /-- `sllv` (R143). -/
  | sllv (rd rt rs : Reg)
  /-- `srlv` (R144). -/
  | srlv (rd rt rs : Reg)
  /-- `srav` (R145). -/
  | srav (rd rt rs : Reg)
  /-- `jr` (R222). -/
  | jr (rs : Reg)
  /-- `jalr` (R223). -/
  | jalr (rd rs : Reg)
  /-- `syscall` (R341). -/
  | syscall (code : BitVec 20)
  /-- `break` (R343). -/
  | brk (code : BitVec 20)
  /-- `sync` (R344). -/
  | sync (stype : BitVec 5)
  /-- `mfhi` (R160). -/
  | mfhi (rd : Reg)
  /-- `mthi` (R161). -/
  | mthi (rs : Reg)
  /-- `mflo` (R162). -/
  | mflo (rd : Reg)
  /-- `mtlo` (R163). -/
  | mtlo (rs : Reg)
  /-- `mult` (R156). -/
  | mult (rs rt : Reg)
  /-- `multu` (R157). -/
  | multu (rs rt : Reg)
  /-- `div` (R158). -/
  | div (rs rt : Reg)
  /-- `divu` (R159). -/
  | divu (rs rt : Reg)
  /-- `add` (R146). -/
  | add (rd rs rt : Reg)
  /-- `addu` (R147). -/
  | addu (rd rs rt : Reg)
  /-- `sub` (R148). -/
  | sub (rd rs rt : Reg)
  /-- `subu` (R149). -/
  | subu (rd rs rt : Reg)
  /-- `and` (R150). -/
  | and (rd rs rt : Reg)
  /-- `or` (R151). -/
  | or (rd rs rt : Reg)
  /-- `xor` (R152). -/
  | xor (rd rs rt : Reg)
  /-- `nor` (R153). -/
  | nor (rd rs rt : Reg)
  /-- `slt` (R154). -/
  | slt (rd rs rt : Reg)
  /-- `sltu` (R155). -/
  | sltu (rd rs rt : Reg)
  /-- `tge` (R346). -/
  | tge (rs rt : Reg) (code : BitVec 10)
  /-- `tgeu` (R347). -/
  | tgeu (rs rt : Reg) (code : BitVec 10)
  /-- `tlt` (R348). -/
  | tlt (rs rt : Reg) (code : BitVec 10)
  /-- `tltu` (R349). -/
  | tltu (rs rt : Reg) (code : BitVec 10)
  /-- `teq` (R350). -/
  | teq (rs rt : Reg) (code : BitVec 10)
  /-- `tne` (R351). -/
  | tne (rs rt : Reg) (code : BitVec 10)
  /-- `bltz` (R211). -/
  | bltz (rs : Reg) (offset : BitVec 16)
  /-- `bgez` (R212). -/
  | bgez (rs : Reg) (offset : BitVec 16)
  /-- `tgei` (R352). -/
  | tgei (rs : Reg) (imm : BitVec 16)
  /-- `tgeiu` (R353). -/
  | tgeiu (rs : Reg) (imm : BitVec 16)
  /-- `tlti` (R354). -/
  | tlti (rs : Reg) (imm : BitVec 16)
  /-- `tltiu` (R355). -/
  | tltiu (rs : Reg) (imm : BitVec 16)
  /-- `teqi` (R356). -/
  | teqi (rs : Reg) (imm : BitVec 16)
  /-- `tnei` (R357). -/
  | tnei (rs : Reg) (imm : BitVec 16)
  /-- `bltzal` (R214). -/
  | bltzal (rs : Reg) (offset : BitVec 16)
  /-- `bal` (R213). -/
  | bal (offset : BitVec 16)
  /-- `bgezal` (R215). -/
  | bgezal (rs : Reg) (offset : BitVec 16)
  /-- `j` (R220). -/
  | j (target : BitVec 26)
  /-- `jal` (R221). -/
  | jal (target : BitVec 26)
  /-- `b` (R206). -/
  | b (offset : BitVec 16)
  /-- `beq` (R207). -/
  | beq (rs rt : Reg) (offset : BitVec 16)
  /-- `bne` (R208). -/
  | bne (rs rt : Reg) (offset : BitVec 16)
  /-- `blez` (R209). -/
  | blez (rs : Reg) (offset : BitVec 16)
  /-- `bgtz` (R210). -/
  | bgtz (rs : Reg) (offset : BitVec 16)
  /-- `addi` (R164). -/
  | addi (rt rs : Reg) (imm : BitVec 16)
  /-- `addiu` (R165). -/
  | addiu (rt rs : Reg) (imm : BitVec 16)
  /-- `slti` (R166). -/
  | slti (rt rs : Reg) (imm : BitVec 16)
  /-- `sltiu` (R167). -/
  | sltiu (rt rs : Reg) (imm : BitVec 16)
  /-- `andi` (R168). -/
  | andi (rt rs : Reg) (imm : BitVec 16)
  /-- `ori` (R169). -/
  | ori (rt rs : Reg) (imm : BitVec 16)
  /-- `xori` (R170). -/
  | xori (rt rs : Reg) (imm : BitVec 16)
  /-- `lui` (R171). -/
  | lui (rt : Reg) (imm : BitVec 16)
  /-- `mfc1` (R285). -/
  | mfc1 (rt fs : Reg)
  /-- `cfc1` (R287). -/
  | cfc1 (rt fs : Reg)
  /-- `mtc1` (R286). -/
  | mtc1 (rt fs : Reg)
  /-- `ctc1` (R288). -/
  | ctc1 (rt fs : Reg)
  /-- `bc1f` (R216). -/
  | bc1f (cc : BitVec 3) (offset : BitVec 16)
  /-- `bc1t` (R217). -/
  | bc1t (cc : BitVec 3) (offset : BitVec 16)
  /-- `bc1fl` (R218). -/
  | bc1fl (cc : BitVec 3) (offset : BitVec 16)
  /-- `bc1tl` (R219). -/
  | bc1tl (cc : BitVec 3) (offset : BitVec 16)
  /-- `add.s` (R290). -/
  | addS (fd fs ft : Reg)
  /-- `sub.s` (R291). -/
  | subS (fd fs ft : Reg)
  /-- `mul.s` (R292). -/
  | mulS (fd fs ft : Reg)
  /-- `div.s` (R293). -/
  | divS (fd fs ft : Reg)
  /-- `sqrt.s` (R294). -/
  | sqrtS (fd fs : Reg)
  /-- `abs.s` (R295). -/
  | absS (fd fs : Reg)
  /-- `mov.s` (R296). -/
  | movS (fd fs : Reg)
  /-- `neg.s` (R297). -/
  | negS (fd fs : Reg)
  /-- `cvt.d.s` (R306). -/
  | cvtDS (fd fs : Reg)
  /-- `cvt.w.s` (R307). -/
  | cvtWS (fd fs : Reg)
  /-- `cvt.l.s` (R308). -/
  | cvtLS (fd fs : Reg)
  /-- `c.f.s` (R316). -/
  | cFS (cc : BitVec 3) (fs ft : Reg)
  /-- `c.un.s` (R316). -/
  | cUnS (cc : BitVec 3) (fs ft : Reg)
  /-- `c.eq.s` (R316). -/
  | cEqS (cc : BitVec 3) (fs ft : Reg)
  /-- `c.ueq.s` (R316). -/
  | cUeqS (cc : BitVec 3) (fs ft : Reg)
  /-- `c.olt.s` (R316). -/
  | cOltS (cc : BitVec 3) (fs ft : Reg)
  /-- `c.ult.s` (R316). -/
  | cUltS (cc : BitVec 3) (fs ft : Reg)
  /-- `c.ole.s` (R316). -/
  | cOleS (cc : BitVec 3) (fs ft : Reg)
  /-- `c.ule.s` (R316). -/
  | cUleS (cc : BitVec 3) (fs ft : Reg)
  /-- `c.sf.s` (R316). -/
  | cSfS (cc : BitVec 3) (fs ft : Reg)
  /-- `c.ngle.s` (R316). -/
  | cNgleS (cc : BitVec 3) (fs ft : Reg)
  /-- `c.seq.s` (R316). -/
  | cSeqS (cc : BitVec 3) (fs ft : Reg)
  /-- `c.ngl.s` (R316). -/
  | cNglS (cc : BitVec 3) (fs ft : Reg)
  /-- `c.lt.s` (R316). -/
  | cLtS (cc : BitVec 3) (fs ft : Reg)
  /-- `c.nge.s` (R316). -/
  | cNgeS (cc : BitVec 3) (fs ft : Reg)
  /-- `c.le.s` (R316). -/
  | cLeS (cc : BitVec 3) (fs ft : Reg)
  /-- `c.ngt.s` (R316). -/
  | cNgtS (cc : BitVec 3) (fs ft : Reg)
  /-- `add.d` (R298). -/
  | addD (fd fs ft : Reg)
  /-- `sub.d` (R299). -/
  | subD (fd fs ft : Reg)
  /-- `mul.d` (R300). -/
  | mulD (fd fs ft : Reg)
  /-- `div.d` (R301). -/
  | divD (fd fs ft : Reg)
  /-- `sqrt.d` (R302). -/
  | sqrtD (fd fs : Reg)
  /-- `abs.d` (R303). -/
  | absD (fd fs : Reg)
  /-- `mov.d` (R304). -/
  | movD (fd fs : Reg)
  /-- `neg.d` (R305). -/
  | negD (fd fs : Reg)
  /-- `cvt.s.d` (R309). -/
  | cvtSD (fd fs : Reg)
  /-- `cvt.w.d` (R310). -/
  | cvtWD (fd fs : Reg)
  /-- `cvt.l.d` (R311). -/
  | cvtLD (fd fs : Reg)
  /-- `c.f.d` (R317). -/
  | cFD (cc : BitVec 3) (fs ft : Reg)
  /-- `c.un.d` (R317). -/
  | cUnD (cc : BitVec 3) (fs ft : Reg)
  /-- `c.eq.d` (R317). -/
  | cEqD (cc : BitVec 3) (fs ft : Reg)
  /-- `c.ueq.d` (R317). -/
  | cUeqD (cc : BitVec 3) (fs ft : Reg)
  /-- `c.olt.d` (R317). -/
  | cOltD (cc : BitVec 3) (fs ft : Reg)
  /-- `c.ult.d` (R317). -/
  | cUltD (cc : BitVec 3) (fs ft : Reg)
  /-- `c.ole.d` (R317). -/
  | cOleD (cc : BitVec 3) (fs ft : Reg)
  /-- `c.ule.d` (R317). -/
  | cUleD (cc : BitVec 3) (fs ft : Reg)
  /-- `c.sf.d` (R317). -/
  | cSfD (cc : BitVec 3) (fs ft : Reg)
  /-- `c.ngle.d` (R317). -/
  | cNgleD (cc : BitVec 3) (fs ft : Reg)
  /-- `c.seq.d` (R317). -/
  | cSeqD (cc : BitVec 3) (fs ft : Reg)
  /-- `c.ngl.d` (R317). -/
  | cNglD (cc : BitVec 3) (fs ft : Reg)
  /-- `c.lt.d` (R317). -/
  | cLtD (cc : BitVec 3) (fs ft : Reg)
  /-- `c.nge.d` (R317). -/
  | cNgeD (cc : BitVec 3) (fs ft : Reg)
  /-- `c.le.d` (R317). -/
  | cLeD (cc : BitVec 3) (fs ft : Reg)
  /-- `c.ngt.d` (R317). -/
  | cNgtD (cc : BitVec 3) (fs ft : Reg)
  /-- `cvt.s.w` (R312). -/
  | cvtSW (fd fs : Reg)
  /-- `cvt.d.w` (R313). -/
  | cvtDW (fd fs : Reg)
  /-- `cvt.s.l` (R314). -/
  | cvtSL (fd fs : Reg)
  /-- `cvt.d.l` (R315). -/
  | cvtDL (fd fs : Reg)
  /-- `lb` (R245). -/
  | lb (rt base : Reg) (offset : BitVec 16)
  /-- `lh` (R247). -/
  | lh (rt base : Reg) (offset : BitVec 16)
  /-- `lwl` (R251). -/
  | lwl (rt base : Reg) (offset : BitVec 16)
  /-- `lw` (R249). -/
  | lw (rt base : Reg) (offset : BitVec 16)
  /-- `lbu` (R246). -/
  | lbu (rt base : Reg) (offset : BitVec 16)
  /-- `lhu` (R248). -/
  | lhu (rt base : Reg) (offset : BitVec 16)
  /-- `lwr` (R252). -/
  | lwr (rt base : Reg) (offset : BitVec 16)
  /-- `sb` (R255). -/
  | sb (rt base : Reg) (offset : BitVec 16)
  /-- `sh` (R256). -/
  | sh (rt base : Reg) (offset : BitVec 16)
  /-- `swl` (R259). -/
  | swl (rt base : Reg) (offset : BitVec 16)
  /-- `sw` (R257). -/
  | sw (rt base : Reg) (offset : BitVec 16)
  /-- `swr` (R260). -/
  | swr (rt base : Reg) (offset : BitVec 16)
  /-- `ll` (R250). -/
  | ll (rt base : Reg) (offset : BitVec 16)
  /-- `sc` (R258). -/
  | sc (rt base : Reg) (offset : BitVec 16)
  /-- `lwc1` (R253). -/
  | lwc1 (ft base : Reg) (offset : BitVec 16)
  /-- `ldc1` (R254). -/
  | ldc1 (ft base : Reg) (offset : BitVec 16)
  /-- `swc1` (R261). -/
  | swc1 (ft base : Reg) (offset : BitVec 16)
  /-- `sdc1` (R262). -/
  | sdc1 (ft base : Reg) (offset : BitVec 16)
  /-- The marker `ssnop` of group generic (R105, R359). -/
  | ssnop
  /-- The marker `ehb` of group generic (R105, R359). -/
  | ehb
  /-- The marker `movf` of group generic (R105, R359). -/
  | movf
  /-- The marker `movt` of group generic (R105, R359). -/
  | movt
  /-- The marker `rotr` of group generic (R105, R359). -/
  | rotr
  /-- The marker `rotrv` of group generic (R105, R359). -/
  | rotrv
  /-- The marker `jr.hb` of group generic (R105, R359). -/
  | jrHb
  /-- The marker `jalr.hb` of group generic (R105, R359). -/
  | jalrHb
  /-- The marker `movz` of group generic (R105, R359). -/
  | movz
  /-- The marker `movn` of group generic (R105, R359). -/
  | movn
  /-- The marker `bltzl` of group generic (R105, R359). -/
  | bltzl
  /-- The marker `bgezl` of group generic (R105, R359). -/
  | bgezl
  /-- The marker `bltzall` of group generic (R105, R359). -/
  | bltzall
  /-- The marker `bgezall` of group generic (R105, R359). -/
  | bgezall
  /-- The marker `synci` of group generic (R105, R359). -/
  | synci
  /-- The marker `Fail` of group generic (R105, R360). -/
  | failSentinel
  /-- The marker `Pass` of group generic (R105, R360). -/
  | passSentinel
  /-- The marker `cop0` of group CP0 (R105, R359). -/
  | cop0
  /-- The marker `mfc0` of group CP0 (R105, R359). -/
  | mfc0
  /-- The marker `mtc0` of group CP0 (R105, R359). -/
  | mtc0
  /-- The marker `rdpgpr` of group CP0 (R105, R359). -/
  | rdpgpr
  /-- The marker `wrpgpr` of group CP0 (R105, R359). -/
  | wrpgpr
  /-- The marker `di` of group CP0 (R105, R359). -/
  | di
  /-- The marker `ei` of group CP0 (R105, R359). -/
  | ei
  /-- The marker `tlbr` of group CP0 (R105, R359). -/
  | tlbr
  /-- The marker `tlbwi` of group CP0 (R105, R359). -/
  | tlbwi
  /-- The marker `tlbwr` of group CP0 (R105, R359). -/
  | tlbwr
  /-- The marker `tlbp` of group CP0 (R105, R359). -/
  | tlbp
  /-- The marker `eret` of group CP0 (R105, R359). -/
  | eret
  /-- The marker `deret` of group CP0 (R105, R359). -/
  | deret
  /-- The marker `wait` of group CP0 (R105, R359). -/
  | wait
  /-- The marker `dmfc1` of group CP1 (R105, R359). -/
  | dmfc1
  /-- The marker `mfhc1` of group CP1 (R105, R359). -/
  | mfhc1
  /-- The marker `dmtc1` of group CP1 (R105, R359). -/
  | dmtc1
  /-- The marker `mthc1` of group CP1 (R105, R359). -/
  | mthc1
  /-- The marker `bc1any2` of group CP1 (R105, R359). -/
  | bc1any2
  /-- The marker `bc1any4` of group CP1 (R105, R359). -/
  | bc1any4
  /-- The marker `round.l.s` of group CP1 (R105, R359). -/
  | roundLS
  /-- The marker `trunc.l.s` of group CP1 (R105, R359). -/
  | truncLS
  /-- The marker `ceil.l.s` of group CP1 (R105, R359). -/
  | ceilLS
  /-- The marker `floor.l.s` of group CP1 (R105, R359). -/
  | floorLS
  /-- The marker `round.w.s` of group CP1 (R105, R359). -/
  | roundWS
  /-- The marker `trunc.w.s` of group CP1 (R105, R359). -/
  | truncWS
  /-- The marker `ceil.w.s` of group CP1 (R105, R359). -/
  | ceilWS
  /-- The marker `floor.w.s` of group CP1 (R105, R359). -/
  | floorWS
  /-- The marker `movz.s` of group CP1 (R105, R359). -/
  | movzS
  /-- The marker `movn.s` of group CP1 (R105, R359). -/
  | movnS
  /-- The marker `recip.s` of group CP1 (R105, R359). -/
  | recipS
  /-- The marker `rsqrt.s` of group CP1 (R105, R359). -/
  | rsqrtS
  /-- The marker `movf.s` of group CP1 (R105, R359). -/
  | movfS
  /-- The marker `movt.s` of group CP1 (R105, R359). -/
  | movtS
  /-- The marker `cvt.ps.s` of group CP1 (R105, R359). -/
  | cvtPsS
  /-- The marker `round.l.d` of group CP1 (R105, R359). -/
  | roundLD
  /-- The marker `trunc.l.d` of group CP1 (R105, R359). -/
  | truncLD
  /-- The marker `ceil.l.d` of group CP1 (R105, R359). -/
  | ceilLD
  /-- The marker `floor.l.d` of group CP1 (R105, R359). -/
  | floorLD
  /-- The marker `round.w.d` of group CP1 (R105, R359). -/
  | roundWD
  /-- The marker `trunc.w.d` of group CP1 (R105, R359). -/
  | truncWD
  /-- The marker `ceil.w.d` of group CP1 (R105, R359). -/
  | ceilWD
  /-- The marker `floor.w.d` of group CP1 (R105, R359). -/
  | floorWD
  /-- The marker `movz.d` of group CP1 (R105, R359). -/
  | movzD
  /-- The marker `movn.d` of group CP1 (R105, R359). -/
  | movnD
  /-- The marker `recip.d` of group CP1 (R105, R359). -/
  | recipD
  /-- The marker `rsqrt.d` of group CP1 (R105, R359). -/
  | rsqrtD
  /-- The marker `movf.d` of group CP1 (R105, R359). -/
  | movfD
  /-- The marker `movt.d` of group CP1 (R105, R359). -/
  | movtD
  /-- The marker `fmt.ps` of group CP1 (R105, R359). -/
  | fmtPs
  /-- The marker `cop2` of group CP2 (R105, R359). -/
  | cop2
  /-- The marker `lwxc1` of group CP1 (R105, R359). -/
  | lwxc1
  /-- The marker `ldxc1` of group CP1 (R105, R359). -/
  | ldxc1
  /-- The marker `luxc1` of group CP1 (R105, R359). -/
  | luxc1
  /-- The marker `swxc1` of group CP1 (R105, R359). -/
  | swxc1
  /-- The marker `sdxc1` of group CP1 (R105, R359). -/
  | sdxc1
  /-- The marker `suxc1` of group CP1 (R105, R359). -/
  | suxc1
  /-- The marker `prefx` of group CP1 (R105, R359). -/
  | prefx
  /-- The marker `alnv.ps` of group CP1 (R105, R359). -/
  | alnvPs
  /-- The marker `madd.s` of group CP1 (R105, R359). -/
  | maddS
  /-- The marker `madd.d` of group CP1 (R105, R359). -/
  | maddD
  /-- The marker `madd.ps` of group CP1 (R105, R359). -/
  | maddPs
  /-- The marker `msub.s` of group CP1 (R105, R359). -/
  | msubS
  /-- The marker `msub.d` of group CP1 (R105, R359). -/
  | msubD
  /-- The marker `msub.ps` of group CP1 (R105, R359). -/
  | msubPs
  /-- The marker `nmadd.s` of group CP1 (R105, R359). -/
  | nmaddS
  /-- The marker `nmadd.d` of group CP1 (R105, R359). -/
  | nmaddD
  /-- The marker `nmadd.ps` of group CP1 (R105, R359). -/
  | nmaddPs
  /-- The marker `nmsub.s` of group CP1 (R105, R359). -/
  | nmsubS
  /-- The marker `nmsub.d` of group CP1 (R105, R359). -/
  | nmsubD
  /-- The marker `nmsub.ps` of group CP1 (R105, R359). -/
  | nmsubPs
  /-- The marker `beql` of group generic (R105, R359). -/
  | beql
  /-- The marker `bnel` of group generic (R105, R359). -/
  | bnel
  /-- The marker `blezl` of group generic (R105, R359). -/
  | blezl
  /-- The marker `bgtzl` of group generic (R105, R359). -/
  | bgtzl
  /-- The marker `madd` of group generic (R105, R359). -/
  | madd
  /-- The marker `maddu` of group generic (R105, R359). -/
  | maddu
  /-- The marker `mul` of group generic (R105, R359). -/
  | mul
  /-- The marker `msub` of group generic (R105, R359). -/
  | msub
  /-- The marker `msubu` of group generic (R105, R359). -/
  | msubu
  /-- The marker `clz` of group generic (R105, R359). -/
  | clz
  /-- The marker `clo` of group generic (R105, R359). -/
  | clo
  /-- The marker `sdbbp` of group generic (R105, R359). -/
  | sdbbp
  /-- The marker `jalx` of group generic (R105, R359). -/
  | jalx
  /-- The marker `ext` of group generic (R105, R359). -/
  | ext
  /-- The marker `ins` of group generic (R105, R359). -/
  | ins
  /-- The marker `wsbh` of group generic (R105, R359). -/
  | wsbh
  /-- The marker `seb` of group generic (R105, R359). -/
  | seb
  /-- The marker `seh` of group generic (R105, R359). -/
  | seh
  /-- The marker `rdhwr` of group generic (R105, R359). -/
  | rdhwr
  /-- The marker `cache` of group CP0 (R105, R359). -/
  | cache
  /-- The marker `pref` of group generic (R105, R359). -/
  | pref
  /-- The marker `lwc2` of group CP2 (R105, R359). -/
  | lwc2
  /-- The marker `ldc2` of group CP2 (R105, R359). -/
  | ldc2
  /-- The marker `swc2` of group CP2 (R105, R359). -/
  | swc2
  /-- The marker `sdc2` of group CP2 (R105, R359). -/
  | sdc2
  deriving DecidableEq, Repr

end Sys2Proof
end

