-- ==== Sys2Proof/WellFormed.lean ====
section
/-! DEFINITION. Which terms of `Instr` the decoder can give: the terms whose word is not another row's word. The field
types already bound every operand. -/

namespace Sys2Proof

/-- The well-formed instructions. A `nop` has SA other than 1 and 3, which are `ssnop` and `ehb`; a `sll` has not both RT
and RD zero (R107, R111); a `beq` has not both RS and RT zero, and a `bgezal` not RS zero, which are `b` and `bal` (R112,
R113); a `sltiu` is not one of the two sentinel words (R113). -/
def Instr.wellFormed : Instr → Bool
  | .nop sa => sa != 1 && sa != 3
  | .sll rd rt _ => !(rt == 0 && rd == 0)
  | .beq rs rt _ => !(rs == 0 && rt == 0)
  | .bgezal rs _ => rs != 0
  | .sltiu rt rs imm => !(rs == 0 && rt == 0 && (imm == 0xabc1 || imm == 0xabc2))
  | .srl .. | .sra .. | .sllv .. | .srlv .. | .srav .. | .jr .. | .jalr .. | .syscall .. | .brk .. | .sync ..
  | .mfhi .. | .mthi .. | .mflo .. | .mtlo .. | .mult .. | .multu .. | .div .. | .divu .. | .add .. | .addu ..
  | .sub .. | .subu .. | .and .. | .or .. | .xor .. | .nor .. | .slt .. | .sltu .. | .tge .. | .tgeu ..
  | .tlt .. | .tltu .. | .teq .. | .tne .. | .bltz .. | .bgez .. | .tgei .. | .tgeiu .. | .tlti .. | .tltiu ..
  | .teqi .. | .tnei .. | .bltzal .. | .bal .. | .j .. | .jal .. | .b .. | .bne .. | .blez .. | .bgtz ..
  | .addi .. | .addiu .. | .slti .. | .andi .. | .ori .. | .xori .. | .lui .. | .mfc1 .. | .cfc1 .. | .mtc1 ..
  | .ctc1 .. | .bc1f .. | .bc1t .. | .bc1fl .. | .bc1tl .. | .addS .. | .subS .. | .mulS .. | .divS ..
  | .sqrtS .. | .absS .. | .movS .. | .negS .. | .cvtDS .. | .cvtWS .. | .cvtLS .. | .cFS .. | .cUnS ..
  | .cEqS .. | .cUeqS .. | .cOltS .. | .cUltS .. | .cOleS .. | .cUleS .. | .cSfS .. | .cNgleS .. | .cSeqS ..
  | .cNglS .. | .cLtS .. | .cNgeS .. | .cLeS .. | .cNgtS .. | .addD .. | .subD .. | .mulD .. | .divD ..
  | .sqrtD .. | .absD .. | .movD .. | .negD .. | .cvtSD .. | .cvtWD .. | .cvtLD .. | .cFD .. | .cUnD ..
  | .cEqD .. | .cUeqD .. | .cOltD .. | .cUltD .. | .cOleD .. | .cUleD .. | .cSfD .. | .cNgleD .. | .cSeqD ..
  | .cNglD .. | .cLtD .. | .cNgeD .. | .cLeD .. | .cNgtD .. | .cvtSW .. | .cvtDW .. | .cvtSL .. | .cvtDL ..
  | .lb .. | .lh .. | .lwl .. | .lw .. | .lbu .. | .lhu .. | .lwr .. | .sb .. | .sh .. | .swl .. | .sw ..
  | .swr .. | .ll .. | .sc .. | .lwc1 .. | .ldc1 .. | .swc1 .. | .sdc1 .. | .ssnop .. | .ehb .. | .movf ..
  | .movt .. | .rotr .. | .rotrv .. | .jrHb .. | .jalrHb .. | .movz .. | .movn .. | .bltzl .. | .bgezl ..
  | .bltzall .. | .bgezall .. | .synci .. | .failSentinel .. | .passSentinel .. | .cop0 .. | .mfc0 ..
  | .mtc0 .. | .rdpgpr .. | .wrpgpr .. | .di .. | .ei .. | .tlbr .. | .tlbwi .. | .tlbwr .. | .tlbp ..
  | .eret .. | .deret .. | .wait .. | .dmfc1 .. | .mfhc1 .. | .dmtc1 .. | .mthc1 .. | .bc1any2 .. | .bc1any4 ..
  | .roundLS .. | .truncLS .. | .ceilLS .. | .floorLS .. | .roundWS .. | .truncWS .. | .ceilWS .. | .floorWS ..
  | .movzS .. | .movnS .. | .recipS .. | .rsqrtS .. | .movfS .. | .movtS .. | .cvtPsS .. | .roundLD ..
  | .truncLD .. | .ceilLD .. | .floorLD .. | .roundWD .. | .truncWD .. | .ceilWD .. | .floorWD .. | .movzD ..
  | .movnD .. | .recipD .. | .rsqrtD .. | .movfD .. | .movtD .. | .fmtPs .. | .cop2 .. | .lwxc1 .. | .ldxc1 ..
  | .luxc1 .. | .swxc1 .. | .sdxc1 .. | .suxc1 .. | .prefx .. | .alnvPs .. | .maddS .. | .maddD .. | .maddPs ..
  | .msubS .. | .msubD .. | .msubPs .. | .nmaddS .. | .nmaddD .. | .nmaddPs .. | .nmsubS .. | .nmsubD ..
  | .nmsubPs .. | .beql .. | .bnel .. | .blezl .. | .bgtzl .. | .madd .. | .maddu .. | .mul .. | .msub ..
  | .msubu .. | .clz .. | .clo .. | .sdbbp .. | .jalx .. | .ext .. | .ins .. | .wsbh .. | .seb .. | .seh ..
  | .rdhwr .. | .cache .. | .pref .. | .lwc2 .. | .ldc2 .. | .swc2 .. | .sdc2 .. => true

end Sys2Proof
end

