-- ==== Sys2Proof/Decode.lean ====
section
/-! DEFINITION. The decoder (R90 to R123), total on every word, and the encoder written from the same tables. The tree is
the spec's: one definition per rule R110 to R121, one match per level. -/

namespace Sys2Proof

/-- One leaf of the decoder (R100): an instruction of the table, implemented or marker, or `Unknown` (R106). -/
inductive Leaf
  | instr (i : Instr)
  | unknown
  deriving DecidableEq, Repr

/-- The decode-time part of a static instruction (R8): the word it was decoded from and its leaf. Everything else that R8
lists is a function of the two. -/
structure StaticInst where
  encoding : Word
  leaf : Leaf
  deriving DecidableEq, Repr

/-! ## Field extraction (R91, R92) -/

/-- OPCODE, bits 31:26. -/
def Field.opcode (w : Word) : BitVec 6 := w.extractLsb' 26 6
/-- RS (also FMT, BASE), bits 25:21. -/
def Field.rs (w : Word) : Reg := w.extractLsb' 21 5
/-- RT (also REGIMM, FT), bits 20:16. -/
def Field.rt (w : Word) : Reg := w.extractLsb' 16 5
/-- RD (also FS), bits 15:11. -/
def Field.rd (w : Word) : Reg := w.extractLsb' 11 5
/-- SA (also FD, HINT, STYPE), bits 10:6. -/
def Field.sa (w : Word) : BitVec 5 := w.extractLsb' 6 5
/-- FUNC, bits 5:0. -/
def Field.func (w : Word) : BitVec 6 := w.extractLsb' 0 6
/-- INTIMM (also OFFSET), bits 15:0. -/
def Field.imm (w : Word) : BitVec 16 := w.extractLsb' 0 16
/-- JMPTARG (also RS_RT_INTIMM), bits 25:0. -/
def Field.target (w : Word) : BitVec 26 := w.extractLsb' 0 26
/-- SYSCALLCODE, BREAKCODE, bits 25:6. -/
def Field.code (w : Word) : BitVec 20 := w.extractLsb' 6 20
/-- TRAPCODE, bits 15:6. -/
def Field.trapCode (w : Word) : BitVec 10 := w.extractLsb' 6 10
/-- BRANCH_CC, bits 20:18. -/
def Field.branchCc (w : Word) : BitVec 3 := (Field.rt w).extractLsb' 2 3
/-- ND and TF together, bits 17:16: `ND*2 + TF` of R115. -/
def Field.ndTf (w : Word) : BitVec 2 := (Field.rt w).extractLsb' 0 2
/-- TF (also MOVCI), bit 16. -/
def Field.tf (w : Word) : BitVec 1 := (Field.rt w).extractLsb' 0 1
/-- CC, bits 10:8. -/
def Field.cc (w : Word) : BitVec 3 := (Field.sa w).extractLsb' 2 3
/-- CMPZ, bits 7:6. -/
def Field.cmpz (w : Word) : BitVec 2 := (Field.sa w).extractLsb' 0 2
/-- HB, bit 10. -/
def Field.hb (w : Word) : BitVec 1 := (Field.sa w).extractLsb' 4 1
/-- SC, bit 5. -/
def Field.sc (w : Word) : BitVec 1 := (Field.func w).extractLsb' 5 1

/-! ## The dispatch tree -/

/-- A must-be-zero test (R103): the leaf if the test holds, else `Unknown`. -/
def Leaf.guard (ok : Bool) (i : Instr) : Leaf :=
  if ok then .instr i else .unknown

/-- FUNC 0 of SPECIAL (R111): `Unknown` unless RS = 0; then by RT_RD and SA. -/
def decodeShiftLeft (w : Word) : Leaf :=
  if Field.rs w != 0 then .unknown
  else if Field.rt w == 0 && Field.rd w == 0 then
    if Field.sa w == 1 then .instr .ssnop
    else if Field.sa w == 3 then .instr .ehb
    else .instr (.nop (Field.sa w))
  else .instr (.sll (Field.rd w) (Field.rt w) (Field.sa w))

/-- The cells of `decodeSpecial`, for FUNC = n. -/
def decodeSpecialAt (n : Nat) (w : Word) : Leaf :=
  let rs := Field.rs w
  let rt := Field.rt w
  let rd := Field.rd w
  let sa := Field.sa w
  match n with
  | 0 => decodeShiftLeft w
  | 1 =>
    if Field.tf w == 0 then .instr .movf
    else .instr .movt
  | 2 =>
    if rs == 0 then .instr (.srl rd rt sa)
    else if rs == 1 then .instr .rotr
    else .unknown
  | 3 => .guard (rs == 0) (.sra rd rt sa)
  | 4 => .guard (sa == 0) (.sllv rd rt rs)
  | 6 =>
    if sa == 0 then .instr (.srlv rd rt rs)
    else if sa == 1 then .instr .rotrv
    else .unknown
  | 7 => .guard (sa == 0) (.srav rd rt rs)
  | 8 =>
    if Field.hb w == 1 then .instr .jrHb
    else .guard (rt == 0 && rd == 0 && sa == 0) (.jr rs)
  | 9 =>
    if Field.hb w == 1 then .instr .jalrHb
    else .guard (rt == 0 && sa == 0) (.jalr rd rs)
  | 10 => .instr .movz
  | 11 => .instr .movn
  | 12 => .instr (.syscall (Field.code w))
  | 13 => .instr (.brk (Field.code w))
  | 15 => .guard (rs == 0 && rt == 0 && rd == 0) (.sync sa)
  | 16 => .guard (rs == 0 && rt == 0 && sa == 0) (.mfhi rd)
  | 17 => .guard (rt == 0 && rd == 0 && sa == 0) (.mthi rs)
  | 18 => .guard (rs == 0 && rt == 0 && sa == 0) (.mflo rd)
  | 19 => .guard (rt == 0 && rd == 0 && sa == 0) (.mtlo rs)
  | 24 => .guard (rd == 0 && sa == 0) (.mult rs rt)
  | 25 => .guard (rd == 0 && sa == 0) (.multu rs rt)
  | 26 => .guard (rd == 0 && sa == 0) (.div rs rt)
  | 27 => .guard (rd == 0 && sa == 0) (.divu rs rt)
  | 32 => .guard (sa == 0) (.add rd rs rt)
  | 33 => .guard (sa == 0) (.addu rd rs rt)
  | 34 => .guard (sa == 0) (.sub rd rs rt)
  | 35 => .guard (sa == 0) (.subu rd rs rt)
  | 36 => .guard (sa == 0) (.and rd rs rt)
  | 37 => .guard (sa == 0) (.or rd rs rt)
  | 38 => .guard (sa == 0) (.xor rd rs rt)
  | 39 => .guard (sa == 0) (.nor rd rs rt)
  | 42 => .guard (sa == 0) (.slt rd rs rt)
  | 43 => .guard (sa == 0) (.sltu rd rs rt)
  | 48 => .instr (.tge rs rt (Field.trapCode w))
  | 49 => .instr (.tgeu rs rt (Field.trapCode w))
  | 50 => .instr (.tlt rs rt (Field.trapCode w))
  | 51 => .instr (.tltu rs rt (Field.trapCode w))
  | 52 => .instr (.teq rs rt (Field.trapCode w))
  | 54 => .instr (.tne rs rt (Field.trapCode w))
  | _ => .unknown

/-- SPECIAL (R111), on FUNC. -/
def decodeSpecial (w : Word) : Leaf := decodeSpecialAt (Field.func w).toNat w

/-- The cells of `decodeRegimm`, for RT = n. -/
def decodeRegimmAt (n : Nat) (w : Word) : Leaf :=
  let rs := Field.rs w
  let imm := Field.imm w
  match n with
  | 0 => .instr (.bltz rs imm)
  | 1 => .instr (.bgez rs imm)
  | 2 => .instr .bltzl
  | 3 => .instr .bgezl
  | 8 => .instr (.tgei rs imm)
  | 9 => .instr (.tgeiu rs imm)
  | 10 => .instr (.tlti rs imm)
  | 11 => .instr (.tltiu rs imm)
  | 12 => .instr (.teqi rs imm)
  | 14 => .instr (.tnei rs imm)
  | 16 => .instr (.bltzal rs imm)
  | 17 => if rs == 0 then .instr (.bal imm) else .instr (.bgezal rs imm)
  | 18 => .instr .bltzall
  | 19 => .instr .bgezall
  | 31 => .instr .synci
  | _ => .unknown

/-- REGIMM (R112), on RT. -/
def decodeRegimm (w : Word) : Leaf := decodeRegimmAt (Field.rt w).toNat w

/-- OPCODE 0x0B (R113): the two sentinels, else `sltiu`. -/
def decodeSltiu (w : Word) : Leaf :=
  if Field.rs w == 0 && Field.rt w == 0 && Field.imm w == 0xabc2 then .instr .passSentinel
  else if Field.rs w == 0 && Field.rt w == 0 && Field.imm w == 0xabc1 then .instr .failSentinel
  else .instr (.sltiu (Field.rt w) (Field.rs w) (Field.imm w))

/-- The cells of `decodeCop0Co`, for FUNC = n. -/
def decodeCop0CoAt (n : Nat) : Leaf :=
  match n with
  | 1 => .instr .tlbr
  | 2 => .instr .tlbwi
  | 6 => .instr .tlbwr
  | 8 => .instr .tlbp
  | 24 => .instr .eret
  | 31 => .instr .deret
  | 32 => .instr .wait
  | _ => .instr .cop0

/-- COP0 with CO = 1 (R114), on FUNC. -/
def decodeCop0Co (w : Word) : Leaf := decodeCop0CoAt (Field.func w).toNat

/-- COP0 (R114): CO = 1 is RS of 16 or more. No COP0 word is `Unknown`. -/
def decodeCop0 (w : Word) : Leaf :=
  if 16 ≤ (Field.rs w).toNat then decodeCop0Co w
  else
    match (Field.rs w).toNat with
    | 0 => .instr .mfc0
    | 4 => .instr .mtc0
    | 10 => .instr .rdpgpr
    | 11 =>
      if Field.sc w == 0 then .instr .di
      else .instr .ei
    | 14 => .instr .wrpgpr
    | _ => .instr .cop0

/-- The cells of `decodeCop1S`, for FUNC = n. -/
def decodeCop1SAt (n : Nat) (w : Word) : Leaf :=
  let ft := Field.rt w
  let fs := Field.rd w
  let fd := Field.sa w
  let cc := Field.cc w
  let z := Field.cmpz w == 0
  match n with
  | 0 => .instr (.addS fd fs ft)
  | 1 => .instr (.subS fd fs ft)
  | 2 => .instr (.mulS fd fs ft)
  | 3 => .instr (.divS fd fs ft)
  | 4 => .guard (ft == 0) (.sqrtS fd fs)
  | 5 => .guard (ft == 0) (.absS fd fs)
  | 6 => .guard (ft == 0) (.movS fd fs)
  | 7 => .guard (ft == 0) (.negS fd fs)
  | 8 => .instr .roundLS
  | 9 => .instr .truncLS
  | 10 => .instr .ceilLS
  | 11 => .instr .floorLS
  | 12 => .instr .roundWS
  | 13 => .instr .truncWS
  | 14 => .instr .ceilWS
  | 15 => .instr .floorWS
  | 17 => if Field.tf w == 0 then .instr .movfS else .instr .movtS
  | 18 => .instr .movzS
  | 19 => .instr .movnS
  | 21 => .instr .recipS
  | 22 => .instr .rsqrtS
  | 33 => .guard (ft == 0) (.cvtDS fd fs)
  | 36 => .guard (ft == 0) (.cvtWS fd fs)
  | 37 => .guard (ft == 0) (.cvtLS fd fs)
  | 38 => .instr .cvtPsS
  | 48 => .guard z (.cFS cc fs ft)
  | 49 => .guard z (.cUnS cc fs ft)
  | 50 => .guard z (.cEqS cc fs ft)
  | 51 => .guard z (.cUeqS cc fs ft)
  | 52 => .guard z (.cOltS cc fs ft)
  | 53 => .guard z (.cUltS cc fs ft)
  | 54 => .guard z (.cOleS cc fs ft)
  | 55 => .guard z (.cUleS cc fs ft)
  | 56 => .guard z (.cSfS cc fs ft)
  | 57 => .guard z (.cNgleS cc fs ft)
  | 58 => .guard z (.cSeqS cc fs ft)
  | 59 => .guard z (.cNglS cc fs ft)
  | 60 => .guard z (.cLtS cc fs ft)
  | 61 => .guard z (.cNgeS cc fs ft)
  | 62 => .guard z (.cLeS cc fs ft)
  | 63 => .guard z (.cNgtS cc fs ft)
  | _ => .unknown

/-- Format S of COP1 (R116, R123), on FUNC. -/
def decodeCop1S (w : Word) : Leaf := decodeCop1SAt (Field.func w).toNat w

/-- The cells of `decodeCop1D`, for FUNC = n. -/
def decodeCop1DAt (n : Nat) (w : Word) : Leaf :=
  let ft := Field.rt w
  let fs := Field.rd w
  let fd := Field.sa w
  let cc := Field.cc w
  let z := Field.cmpz w == 0
  match n with
  | 0 => .instr (.addD fd fs ft)
  | 1 => .instr (.subD fd fs ft)
  | 2 => .instr (.mulD fd fs ft)
  | 3 => .instr (.divD fd fs ft)
  | 4 => .guard (ft == 0) (.sqrtD fd fs)
  | 5 => .guard (ft == 0) (.absD fd fs)
  | 6 => .guard (ft == 0) (.movD fd fs)
  | 7 => .guard (ft == 0) (.negD fd fs)
  | 8 => .instr .roundLD
  | 9 => .instr .truncLD
  | 10 => .instr .ceilLD
  | 11 => .instr .floorLD
  | 12 => .instr .roundWD
  | 13 => .instr .truncWD
  | 14 => .instr .ceilWD
  | 15 => .instr .floorWD
  | 17 => if Field.tf w == 0 then .instr .movfD else .instr .movtD
  | 18 => .instr .movzD
  | 19 => .instr .movnD
  | 21 => .instr .recipD
  | 22 => .instr .rsqrtD
  | 32 => .guard (ft == 0) (.cvtSD fd fs)
  | 36 => .guard (ft == 0) (.cvtWD fd fs)
  | 37 => .guard (ft == 0) (.cvtLD fd fs)
  | 48 => .guard z (.cFD cc fs ft)
  | 49 => .guard z (.cUnD cc fs ft)
  | 50 => .guard z (.cEqD cc fs ft)
  | 51 => .guard z (.cUeqD cc fs ft)
  | 52 => .guard z (.cOltD cc fs ft)
  | 53 => .guard z (.cUltD cc fs ft)
  | 54 => .guard z (.cOleD cc fs ft)
  | 55 => .guard z (.cUleD cc fs ft)
  | 56 => .guard z (.cSfD cc fs ft)
  | 57 => .guard z (.cNgleD cc fs ft)
  | 58 => .guard z (.cSeqD cc fs ft)
  | 59 => .guard z (.cNglD cc fs ft)
  | 60 => .guard z (.cLtD cc fs ft)
  | 61 => .guard z (.cNgeD cc fs ft)
  | 62 => .guard z (.cLeD cc fs ft)
  | 63 => .guard z (.cNgtD cc fs ft)
  | _ => .unknown

/-- Format D of COP1 (R116, R123), on FUNC. -/
def decodeCop1D (w : Word) : Leaf := decodeCop1DAt (Field.func w).toNat w

/-- Format W of COP1 (R117). -/
def decodeCop1W (w : Word) : Leaf :=
  match (Field.func w).toNat with
  | 32 => .guard (Field.rt w == 0) (.cvtSW (Field.sa w) (Field.rd w))
  | 33 => .guard (Field.rt w == 0) (.cvtDW (Field.sa w) (Field.rd w))
  | _ => .unknown

/-- Format L of COP1 (R117). -/
def decodeCop1L (w : Word) : Leaf :=
  match (Field.func w).toNat with
  | 32 => .guard (Field.rt w == 0) (.cvtSL (Field.sa w) (Field.rd w))
  | 33 => .guard (Field.rt w == 0) (.cvtDL (Field.sa w) (Field.rd w))
  | _ => .unknown

/-- LOW11 = 0 (R103): bits 10:0 of a coprocessor-1 move. -/
def low11Zero (w : Word) : Bool := Field.sa w == 0 && Field.func w == 0

/-- BC (R115), for `ND*2 + TF` = n. -/
def decodeBc1At (n : Nat) (w : Word) : Leaf :=
  match n with
  | 0 => .instr (.bc1f (Field.branchCc w) (Field.imm w))
  | 1 => .instr (.bc1t (Field.branchCc w) (Field.imm w))
  | 2 => .instr (.bc1fl (Field.branchCc w) (Field.imm w))
  | _ => .instr (.bc1tl (Field.branchCc w) (Field.imm w))

/-- The cells of `decodeCop1`, for RS = n. -/
def decodeCop1At (n : Nat) (w : Word) : Leaf :=
  let rt := Field.rt w
  let fs := Field.rd w
  match n with
  | 0 => .guard (low11Zero w) (.mfc1 rt fs)
  | 1 => .instr .dmfc1
  | 2 => .guard (low11Zero w) (.cfc1 rt fs)
  | 3 => .instr .mfhc1
  | 4 => .guard (low11Zero w) (.mtc1 rt fs)
  | 5 => .instr .dmtc1
  | 6 => .guard (low11Zero w) (.ctc1 rt fs)
  | 7 => .instr .mthc1
  | 8 => decodeBc1At (Field.ndTf w).toNat w
  | 9 => .instr .bc1any2
  | 10 => .instr .bc1any4
  | 16 => decodeCop1S w
  | 17 => decodeCop1D w
  | 20 => decodeCop1W w
  | 21 => decodeCop1L w
  | 22 => .instr .fmtPs
  | _ => .unknown

/-- COP1 (R115), on RS. -/
def decodeCop1 (w : Word) : Leaf := decodeCop1At (Field.rs w).toNat w

/-- The cells of `decodeCop1x`, for FUNC = n. -/
def decodeCop1xAt (n : Nat) : Leaf :=
  match n with
  | 0 => .instr .lwxc1
  | 1 => .instr .ldxc1
  | 5 => .instr .luxc1
  | 8 => .instr .swxc1
  | 9 => .instr .sdxc1
  | 13 => .instr .suxc1
  | 15 => .instr .prefx
  | 30 => .instr .alnvPs
  | 32 => .instr .maddS
  | 33 => .instr .maddD
  | 38 => .instr .maddPs
  | 40 => .instr .msubS
  | 41 => .instr .msubD
  | 46 => .instr .msubPs
  | 48 => .instr .nmaddS
  | 49 => .instr .nmaddD
  | 54 => .instr .nmaddPs
  | 56 => .instr .nmsubS
  | 57 => .instr .nmsubD
  | 62 => .instr .nmsubPs
  | _ => .unknown

/-- COP1X (R118), on FUNC. -/
def decodeCop1x (w : Word) : Leaf := decodeCop1xAt (Field.func w).toNat

/-- The cells of `decodeSpecial2`, for FUNC = n. -/
def decodeSpecial2At (n : Nat) : Leaf :=
  match n with
  | 0 => .instr .madd
  | 1 => .instr .maddu
  | 2 => .instr .mul
  | 4 => .instr .msub
  | 5 => .instr .msubu
  | 32 => .instr .clz
  | 33 => .instr .clo
  | 63 => .instr .sdbbp
  | _ => .unknown

/-- SPECIAL2 (R120), on FUNC. -/
def decodeSpecial2 (w : Word) : Leaf := decodeSpecial2At (Field.func w).toNat

/-- SPECIAL3 (R121), on FUNC; BSHFL (FUNC 32) on SA. -/
def decodeSpecial3 (w : Word) : Leaf :=
  match (Field.func w).toNat with
  | 0 => .instr .ext
  | 4 => .instr .ins
  | 32 =>
    match (Field.sa w).toNat with
    | 2 => .instr .wsbh
    | 16 => .instr .seb
    | 24 => .instr .seh
    | _ => .unknown
  | 59 => .instr .rdhwr
  | _ => .unknown

/-- The cells of `decodeWord`, for OPCODE = n. -/
def decodeWordAt (n : Nat) (w : Word) : Leaf :=
  let rs := Field.rs w
  let rt := Field.rt w
  let imm := Field.imm w
  match n with
  | 0x00 => decodeSpecial w
  | 0x01 => decodeRegimm w
  | 0x02 => .instr (.j (Field.target w))
  | 0x03 => .instr (.jal (Field.target w))
  | 0x04 => if rs == 0 && rt == 0 then .instr (.b imm) else .instr (.beq rs rt imm)
  | 0x05 => .instr (.bne rs rt imm)
  | 0x06 => .guard (rt == 0) (.blez rs imm)
  | 0x07 => .guard (rt == 0) (.bgtz rs imm)
  | 0x08 => .instr (.addi rt rs imm)
  | 0x09 => .instr (.addiu rt rs imm)
  | 0x0A => .instr (.slti rt rs imm)
  | 0x0B => decodeSltiu w
  | 0x0C => .instr (.andi rt rs imm)
  | 0x0D => .instr (.ori rt rs imm)
  | 0x0E => .instr (.xori rt rs imm)
  | 0x0F => .guard (rs == 0) (.lui rt imm)
  | 0x10 => decodeCop0 w
  | 0x11 => decodeCop1 w
  | 0x12 => .instr .cop2
  | 0x13 => decodeCop1x w
  | 0x14 => .instr .beql
  | 0x15 => .instr .bnel
  | 0x16 => .instr .blezl
  | 0x17 => .instr .bgtzl
  | 0x1C => decodeSpecial2 w
  | 0x1D => .instr .jalx
  | 0x1F => decodeSpecial3 w
  | 0x20 => .instr (.lb rt rs imm)
  | 0x21 => .instr (.lh rt rs imm)
  | 0x22 => .instr (.lwl rt rs imm)
  | 0x23 => .instr (.lw rt rs imm)
  | 0x24 => .instr (.lbu rt rs imm)
  | 0x25 => .instr (.lhu rt rs imm)
  | 0x26 => .instr (.lwr rt rs imm)
  | 0x28 => .instr (.sb rt rs imm)
  | 0x29 => .instr (.sh rt rs imm)
  | 0x2A => .instr (.swl rt rs imm)
  | 0x2B => .instr (.sw rt rs imm)
  | 0x2E => .instr (.swr rt rs imm)
  | 0x2F => .instr .cache
  | 0x30 => .instr (.ll rt rs imm)
  | 0x31 => .instr (.lwc1 rt rs imm)
  | 0x32 => .instr .lwc2
  | 0x33 => .instr .pref
  | 0x35 => .instr (.ldc1 rt rs imm)
  | 0x36 => .instr .ldc2
  | 0x38 => .instr (.sc rt rs imm)
  | 0x39 => .instr (.swc1 rt rs imm)
  | 0x3A => .instr .swc2
  | 0x3D => .instr (.sdc1 rt rs imm)
  | 0x3E => .instr .sdc2
  | _ => .unknown

/-- `decode_word` (R100): level 1 of the tree, on OPCODE (R110, R113, R119, R122). -/
def decodeWord (w : Word) : Leaf := decodeWordAt (Field.opcode w).toNat w

/-- The static instruction of a word (R101: "`inst <- decode_word(w)` with `encoding = w`"). -/
def decodeStatic (w : Word) : StaticInst := { encoding := w, leaf := decodeWord w }

/-! ## Bytes -/

/-- The little-endian word of four bytes, the first at the lowest address (R64, R90). -/
def wordOfBytes (b0 b1 b2 b3 : Byte) : Word := b3 ++ b2 ++ b1 ++ b0

/-- The i-th byte of a word as memory holds it, byte 0 the least significant (R64). -/
def byteOfWord (w : Word) (i : Nat) : Byte := w.extractLsb' (8 * i) 8

/-- Decode the next instruction of a byte stream and give back the rest; none where fewer than four bytes are left. Every
instruction is four bytes long (R90). -/
def decodeBytes : List Byte → Option (Leaf × List Byte)
  | b0 :: b1 :: b2 :: b3 :: rest => some (decodeWord (wordOfBytes b0 b1 b2 b3), rest)
  | _ => none

/-- The instruction read from a row's bits, numbered as the table numbers them: the bits laid out in memory order, then
decoded. None where the decoder gives `Unknown`. -/
def decodeTableWord (nbits w : Nat) : Option Instr :=
  let v : Word := BitVec.ofNat 32 (w % 2 ^ nbits)
  match decodeBytes [byteOfWord v 0, byteOfWord v 1, byteOfWord v 2, byteOfWord v 3] with
  | some (.instr i, _) => some i
  | _ => none

/-! ## The encoder: the formats of R93 to R96, then one line per instruction -/

/-- The R and FR formats (R93, R96). -/
def rWord (op : BitVec 6) (rs rt rd : Reg) (sa : BitVec 5) (func : BitVec 6) : Word :=
  op ++ rs ++ rt ++ rd ++ sa ++ func

/-- The I format (R94) and the branch form of the F formats (R96). -/
def iWord (op : BitVec 6) (rs rt : Reg) (imm : BitVec 16) : Word := op ++ rs ++ rt ++ imm

/-- The J format (R95). -/
def jWord (op : BitVec 6) (target : BitVec 26) : Word := op ++ target

/-- `syscall` and `break`: OPCODE, CODE, FUNC (R92). -/
def codeWord (code : BitVec 20) (func : BitVec 6) : Word := 0#6 ++ code ++ func

/-- A register trap: OPCODE, RS, RT, CODE, FUNC (R92). -/
def trapWord (rs rt : Reg) (code : BitVec 10) (func : BitVec 6) : Word := 0#6 ++ rs ++ rt ++ code ++ func

/-- A compare (R96): CC and CMPZ = 0 stand in the SA field. -/
def cmpWord (fmt ft fs : Reg) (cc : BitVec 3) (func : BitVec 6) : Word :=
  rWord 0x11 fmt ft fs (cc ++ 0#2) func

/-- A branch on a condition bit (R96): BRANCH_CC, ND and TF stand in the RT field. -/
def bc1Word (cc : BitVec 3) (ndTf : BitVec 2) (offset : BitVec 16) : Word :=
  iWord 0x11 8 (cc ++ ndTf) offset

/-- The word of an instruction (R93 to R96, R110 to R123). A marker gives the row's `match`, the word with every free bit 0;
`cop0` gives RS = 1, the first COP0 word that no named row takes (R114). -/
def encode : Instr → Word
  | .nop sa => rWord 0x00 0 0 0 sa 0
  | .sll rd rt sa => rWord 0x00 0 rt rd sa 0
  | .srl rd rt sa => rWord 0x00 0 rt rd sa 2
  | .sra rd rt sa => rWord 0x00 0 rt rd sa 3
  | .sllv rd rt rs => rWord 0x00 rs rt rd 0 4
  | .srlv rd rt rs => rWord 0x00 rs rt rd 0 6
  | .srav rd rt rs => rWord 0x00 rs rt rd 0 7
  | .jr rs => rWord 0x00 rs 0 0 0 8
  | .jalr rd rs => rWord 0x00 rs 0 rd 0 9
  | .syscall code => codeWord code 12
  | .brk code => codeWord code 13
  | .sync stype => rWord 0x00 0 0 0 stype 15
  | .mfhi rd => rWord 0x00 0 0 rd 0 16
  | .mthi rs => rWord 0x00 rs 0 0 0 17
  | .mflo rd => rWord 0x00 0 0 rd 0 18
  | .mtlo rs => rWord 0x00 rs 0 0 0 19
  | .mult rs rt => rWord 0x00 rs rt 0 0 24
  | .multu rs rt => rWord 0x00 rs rt 0 0 25
  | .div rs rt => rWord 0x00 rs rt 0 0 26
  | .divu rs rt => rWord 0x00 rs rt 0 0 27
  | .add rd rs rt => rWord 0x00 rs rt rd 0 32
  | .addu rd rs rt => rWord 0x00 rs rt rd 0 33
  | .sub rd rs rt => rWord 0x00 rs rt rd 0 34
  | .subu rd rs rt => rWord 0x00 rs rt rd 0 35
  | .and rd rs rt => rWord 0x00 rs rt rd 0 36
  | .or rd rs rt => rWord 0x00 rs rt rd 0 37
  | .xor rd rs rt => rWord 0x00 rs rt rd 0 38
  | .nor rd rs rt => rWord 0x00 rs rt rd 0 39
  | .slt rd rs rt => rWord 0x00 rs rt rd 0 42
  | .sltu rd rs rt => rWord 0x00 rs rt rd 0 43
  | .tge rs rt code => trapWord rs rt code 48
  | .tgeu rs rt code => trapWord rs rt code 49
  | .tlt rs rt code => trapWord rs rt code 50
  | .tltu rs rt code => trapWord rs rt code 51
  | .teq rs rt code => trapWord rs rt code 52
  | .tne rs rt code => trapWord rs rt code 54
  | .bltz rs offset => iWord 0x01 rs 0 offset
  | .bgez rs offset => iWord 0x01 rs 1 offset
  | .tgei rs imm => iWord 0x01 rs 8 imm
  | .tgeiu rs imm => iWord 0x01 rs 9 imm
  | .tlti rs imm => iWord 0x01 rs 10 imm
  | .tltiu rs imm => iWord 0x01 rs 11 imm
  | .teqi rs imm => iWord 0x01 rs 12 imm
  | .tnei rs imm => iWord 0x01 rs 14 imm
  | .bltzal rs offset => iWord 0x01 rs 16 offset
  | .bal offset => iWord 0x01 0 17 offset
  | .bgezal rs offset => iWord 0x01 rs 17 offset
  | .j target => jWord 0x02 target
  | .jal target => jWord 0x03 target
  | .b offset => iWord 0x04 0 0 offset
  | .beq rs rt offset => iWord 0x04 rs rt offset
  | .bne rs rt offset => iWord 0x05 rs rt offset
  | .blez rs offset => iWord 0x06 rs 0 offset
  | .bgtz rs offset => iWord 0x07 rs 0 offset
  | .addi rt rs imm => iWord 0x08 rs rt imm
  | .addiu rt rs imm => iWord 0x09 rs rt imm
  | .slti rt rs imm => iWord 0x0A rs rt imm
  | .sltiu rt rs imm => iWord 0x0B rs rt imm
  | .andi rt rs imm => iWord 0x0C rs rt imm
  | .ori rt rs imm => iWord 0x0D rs rt imm
  | .xori rt rs imm => iWord 0x0E rs rt imm
  | .lui rt imm => iWord 0x0F 0 rt imm
  | .mfc1 rt fs => rWord 0x11 0 rt fs 0 0
  | .cfc1 rt fs => rWord 0x11 2 rt fs 0 0
  | .mtc1 rt fs => rWord 0x11 4 rt fs 0 0
  | .ctc1 rt fs => rWord 0x11 6 rt fs 0 0
  | .bc1f cc offset => bc1Word cc 0 offset
  | .bc1t cc offset => bc1Word cc 1 offset
  | .bc1fl cc offset => bc1Word cc 2 offset
  | .bc1tl cc offset => bc1Word cc 3 offset
  | .addS fd fs ft => rWord 0x11 16 ft fs fd 0
  | .subS fd fs ft => rWord 0x11 16 ft fs fd 1
  | .mulS fd fs ft => rWord 0x11 16 ft fs fd 2
  | .divS fd fs ft => rWord 0x11 16 ft fs fd 3
  | .sqrtS fd fs => rWord 0x11 16 0 fs fd 4
  | .absS fd fs => rWord 0x11 16 0 fs fd 5
  | .movS fd fs => rWord 0x11 16 0 fs fd 6
  | .negS fd fs => rWord 0x11 16 0 fs fd 7
  | .cvtDS fd fs => rWord 0x11 16 0 fs fd 33
  | .cvtWS fd fs => rWord 0x11 16 0 fs fd 36
  | .cvtLS fd fs => rWord 0x11 16 0 fs fd 37
  | .cFS cc fs ft => cmpWord 16 ft fs cc 48
  | .cUnS cc fs ft => cmpWord 16 ft fs cc 49
  | .cEqS cc fs ft => cmpWord 16 ft fs cc 50
  | .cUeqS cc fs ft => cmpWord 16 ft fs cc 51
  | .cOltS cc fs ft => cmpWord 16 ft fs cc 52
  | .cUltS cc fs ft => cmpWord 16 ft fs cc 53
  | .cOleS cc fs ft => cmpWord 16 ft fs cc 54
  | .cUleS cc fs ft => cmpWord 16 ft fs cc 55
  | .cSfS cc fs ft => cmpWord 16 ft fs cc 56
  | .cNgleS cc fs ft => cmpWord 16 ft fs cc 57
  | .cSeqS cc fs ft => cmpWord 16 ft fs cc 58
  | .cNglS cc fs ft => cmpWord 16 ft fs cc 59
  | .cLtS cc fs ft => cmpWord 16 ft fs cc 60
  | .cNgeS cc fs ft => cmpWord 16 ft fs cc 61
  | .cLeS cc fs ft => cmpWord 16 ft fs cc 62
  | .cNgtS cc fs ft => cmpWord 16 ft fs cc 63
  | .addD fd fs ft => rWord 0x11 17 ft fs fd 0
  | .subD fd fs ft => rWord 0x11 17 ft fs fd 1
  | .mulD fd fs ft => rWord 0x11 17 ft fs fd 2
  | .divD fd fs ft => rWord 0x11 17 ft fs fd 3
  | .sqrtD fd fs => rWord 0x11 17 0 fs fd 4
  | .absD fd fs => rWord 0x11 17 0 fs fd 5
  | .movD fd fs => rWord 0x11 17 0 fs fd 6
  | .negD fd fs => rWord 0x11 17 0 fs fd 7
  | .cvtSD fd fs => rWord 0x11 17 0 fs fd 32
  | .cvtWD fd fs => rWord 0x11 17 0 fs fd 36
  | .cvtLD fd fs => rWord 0x11 17 0 fs fd 37
  | .cFD cc fs ft => cmpWord 17 ft fs cc 48
  | .cUnD cc fs ft => cmpWord 17 ft fs cc 49
  | .cEqD cc fs ft => cmpWord 17 ft fs cc 50
  | .cUeqD cc fs ft => cmpWord 17 ft fs cc 51
  | .cOltD cc fs ft => cmpWord 17 ft fs cc 52
  | .cUltD cc fs ft => cmpWord 17 ft fs cc 53
  | .cOleD cc fs ft => cmpWord 17 ft fs cc 54
  | .cUleD cc fs ft => cmpWord 17 ft fs cc 55
  | .cSfD cc fs ft => cmpWord 17 ft fs cc 56
  | .cNgleD cc fs ft => cmpWord 17 ft fs cc 57
  | .cSeqD cc fs ft => cmpWord 17 ft fs cc 58
  | .cNglD cc fs ft => cmpWord 17 ft fs cc 59
  | .cLtD cc fs ft => cmpWord 17 ft fs cc 60
  | .cNgeD cc fs ft => cmpWord 17 ft fs cc 61
  | .cLeD cc fs ft => cmpWord 17 ft fs cc 62
  | .cNgtD cc fs ft => cmpWord 17 ft fs cc 63
  | .cvtSW fd fs => rWord 0x11 20 0 fs fd 32
  | .cvtDW fd fs => rWord 0x11 20 0 fs fd 33
  | .cvtSL fd fs => rWord 0x11 21 0 fs fd 32
  | .cvtDL fd fs => rWord 0x11 21 0 fs fd 33
  | .lb rt base offset => iWord 0x20 base rt offset
  | .lh rt base offset => iWord 0x21 base rt offset
  | .lwl rt base offset => iWord 0x22 base rt offset
  | .lw rt base offset => iWord 0x23 base rt offset
  | .lbu rt base offset => iWord 0x24 base rt offset
  | .lhu rt base offset => iWord 0x25 base rt offset
  | .lwr rt base offset => iWord 0x26 base rt offset
  | .sb rt base offset => iWord 0x28 base rt offset
  | .sh rt base offset => iWord 0x29 base rt offset
  | .swl rt base offset => iWord 0x2A base rt offset
  | .sw rt base offset => iWord 0x2B base rt offset
  | .swr rt base offset => iWord 0x2E base rt offset
  | .ll rt base offset => iWord 0x30 base rt offset
  | .sc rt base offset => iWord 0x38 base rt offset
  | .lwc1 ft base offset => iWord 0x31 base ft offset
  | .ldc1 ft base offset => iWord 0x35 base ft offset
  | .swc1 ft base offset => iWord 0x39 base ft offset
  | .sdc1 ft base offset => iWord 0x3D base ft offset
  | .ssnop => rWord 0x00 0 0 0 1 0
  | .ehb => rWord 0x00 0 0 0 3 0
  | .movf => rWord 0x00 0 0 0 0 1
  | .movt => rWord 0x00 0 1 0 0 1
  | .rotr => rWord 0x00 1 0 0 0 2
  | .rotrv => rWord 0x00 0 0 0 1 6
  | .jrHb => rWord 0x00 0 0 0 16 8
  | .jalrHb => rWord 0x00 0 0 0 16 9
  | .movz => rWord 0x00 0 0 0 0 10
  | .movn => rWord 0x00 0 0 0 0 11
  | .bltzl => rWord 0x01 0 2 0 0 0
  | .bgezl => rWord 0x01 0 3 0 0 0
  | .bltzall => rWord 0x01 0 18 0 0 0
  | .bgezall => rWord 0x01 0 19 0 0 0
  | .synci => rWord 0x01 0 31 0 0 0
  | .failSentinel => iWord 0x0B 0 0 0xabc1
  | .passSentinel => iWord 0x0B 0 0 0xabc2
  | .cop0 => rWord 0x10 1 0 0 0 0
  | .mfc0 => rWord 0x10 0 0 0 0 0
  | .mtc0 => rWord 0x10 4 0 0 0 0
  | .rdpgpr => rWord 0x10 10 0 0 0 0
  | .wrpgpr => rWord 0x10 14 0 0 0 0
  | .di => rWord 0x10 11 0 0 0 0
  | .ei => rWord 0x10 11 0 0 0 32
  | .tlbr => rWord 0x10 16 0 0 0 1
  | .tlbwi => rWord 0x10 16 0 0 0 2
  | .tlbwr => rWord 0x10 16 0 0 0 6
  | .tlbp => rWord 0x10 16 0 0 0 8
  | .eret => rWord 0x10 16 0 0 0 24
  | .deret => rWord 0x10 16 0 0 0 31
  | .wait => rWord 0x10 16 0 0 0 32
  | .dmfc1 => rWord 0x11 1 0 0 0 0
  | .mfhc1 => rWord 0x11 3 0 0 0 0
  | .dmtc1 => rWord 0x11 5 0 0 0 0
  | .mthc1 => rWord 0x11 7 0 0 0 0
  | .bc1any2 => rWord 0x11 9 0 0 0 0
  | .bc1any4 => rWord 0x11 10 0 0 0 0
  | .roundLS => rWord 0x11 16 0 0 0 8
  | .truncLS => rWord 0x11 16 0 0 0 9
  | .ceilLS => rWord 0x11 16 0 0 0 10
  | .floorLS => rWord 0x11 16 0 0 0 11
  | .roundWS => rWord 0x11 16 0 0 0 12
  | .truncWS => rWord 0x11 16 0 0 0 13
  | .ceilWS => rWord 0x11 16 0 0 0 14
  | .floorWS => rWord 0x11 16 0 0 0 15
  | .movzS => rWord 0x11 16 0 0 0 18
  | .movnS => rWord 0x11 16 0 0 0 19
  | .recipS => rWord 0x11 16 0 0 0 21
  | .rsqrtS => rWord 0x11 16 0 0 0 22
  | .movfS => rWord 0x11 16 0 0 0 17
  | .movtS => rWord 0x11 16 1 0 0 17
  | .cvtPsS => rWord 0x11 16 0 0 0 38
  | .roundLD => rWord 0x11 17 0 0 0 8
  | .truncLD => rWord 0x11 17 0 0 0 9
  | .ceilLD => rWord 0x11 17 0 0 0 10
  | .floorLD => rWord 0x11 17 0 0 0 11
  | .roundWD => rWord 0x11 17 0 0 0 12
  | .truncWD => rWord 0x11 17 0 0 0 13
  | .ceilWD => rWord 0x11 17 0 0 0 14
  | .floorWD => rWord 0x11 17 0 0 0 15
  | .movzD => rWord 0x11 17 0 0 0 18
  | .movnD => rWord 0x11 17 0 0 0 19
  | .recipD => rWord 0x11 17 0 0 0 21
  | .rsqrtD => rWord 0x11 17 0 0 0 22
  | .movfD => rWord 0x11 17 0 0 0 17
  | .movtD => rWord 0x11 17 1 0 0 17
  | .fmtPs => rWord 0x11 22 0 0 0 0
  | .cop2 => rWord 0x12 0 0 0 0 0
  | .lwxc1 => rWord 0x13 0 0 0 0 0
  | .ldxc1 => rWord 0x13 0 0 0 0 1
  | .luxc1 => rWord 0x13 0 0 0 0 5
  | .swxc1 => rWord 0x13 0 0 0 0 8
  | .sdxc1 => rWord 0x13 0 0 0 0 9
  | .suxc1 => rWord 0x13 0 0 0 0 13
  | .prefx => rWord 0x13 0 0 0 0 15
  | .alnvPs => rWord 0x13 0 0 0 0 30
  | .maddS => rWord 0x13 0 0 0 0 32
  | .maddD => rWord 0x13 0 0 0 0 33
  | .maddPs => rWord 0x13 0 0 0 0 38
  | .msubS => rWord 0x13 0 0 0 0 40
  | .msubD => rWord 0x13 0 0 0 0 41
  | .msubPs => rWord 0x13 0 0 0 0 46
  | .nmaddS => rWord 0x13 0 0 0 0 48
  | .nmaddD => rWord 0x13 0 0 0 0 49
  | .nmaddPs => rWord 0x13 0 0 0 0 54
  | .nmsubS => rWord 0x13 0 0 0 0 56
  | .nmsubD => rWord 0x13 0 0 0 0 57
  | .nmsubPs => rWord 0x13 0 0 0 0 62
  | .beql => rWord 0x14 0 0 0 0 0
  | .bnel => rWord 0x15 0 0 0 0 0
  | .blezl => rWord 0x16 0 0 0 0 0
  | .bgtzl => rWord 0x17 0 0 0 0 0
  | .madd => rWord 0x1C 0 0 0 0 0
  | .maddu => rWord 0x1C 0 0 0 0 1
  | .mul => rWord 0x1C 0 0 0 0 2
  | .msub => rWord 0x1C 0 0 0 0 4
  | .msubu => rWord 0x1C 0 0 0 0 5
  | .clz => rWord 0x1C 0 0 0 0 32
  | .clo => rWord 0x1C 0 0 0 0 33
  | .sdbbp => rWord 0x1C 0 0 0 0 63
  | .jalx => rWord 0x1D 0 0 0 0 0
  | .ext => rWord 0x1F 0 0 0 0 0
  | .ins => rWord 0x1F 0 0 0 0 4
  | .wsbh => rWord 0x1F 0 0 0 2 32
  | .seb => rWord 0x1F 0 0 0 16 32
  | .seh => rWord 0x1F 0 0 0 24 32
  | .rdhwr => rWord 0x1F 0 0 0 0 59
  | .cache => rWord 0x2F 0 0 0 0 0
  | .pref => rWord 0x33 0 0 0 0 0
  | .lwc2 => rWord 0x32 0 0 0 0 0
  | .ldc2 => rWord 0x36 0 0 0 0 0
  | .swc2 => rWord 0x3A 0 0 0 0 0
  | .sdc2 => rWord 0x3E 0 0 0 0 0

end Sys2Proof
end

