-- ==== Sys2Proof/Machine/State.lean ====
section
/-! DEFINITION. The state of the machine as plain data (R20, R37, R42, R47, R49), the faults of R371, the ends of a run of
R391, and the state right after reset. -/

namespace Sys2Proof.Machine

/-- Memory: the listed bytes, addresses rising, none equal to what an unlisted address reads as (Machine/Ops.lean,
`Memory.wf`). It covers the 2^32 byte addresses of R61. -/
abbrev Memory := List Host.Cell

/-- A run of mapped addresses: MAPPED of R71 is the union of a list of them. -/
structure Region where
  base : Nat
  size : Nat
  deriving DecidableEq, Repr

/-- The 71 words of a thread's register state (R20, R37): what the shadow copy holds one value of. -/
structure Regs where
  /-- `x[0..31]` (R21). -/
  x : Vector Word 32
  /-- `fw[0..31]`, the one store behind the four float views (R32). -/
  fw : Vector Word 32
  lo : Word
  hi : Word
  /-- The computed effective address (R44). -/
  ea : Word
  /-- The floating-point control and status register (R30). -/
  fcsr : Word
  /-- The address of the instruction being fetched or executed (R26). -/
  pc : Word
  /-- The address of the instruction that executes next (R26). -/
  npc : Word
  /-- The address of the instruction after that (R26). -/
  nnpc : Word
  deriving DecidableEq, Repr

/-- Every register 0 and the counters at a launch entry (R47, R401). -/
def Regs.atEntry (entry : Word) : Regs :=
  { x := Vector.replicate 32 0, fw := Vector.replicate 32 0, lo := 0, hi := 0, ea := 0, fcsr := 0,
    pc := entry, npc := entry + 4, nnpc := entry + 8 }

/-- The shadow copy's value after reset: all 71 words 0 (R47). -/
def Regs.zero : Regs :=
  { x := Vector.replicate 32 0, fw := Vector.replicate 32 0, lo := 0, hi := 0, ea := 0, fcsr := 0,
    pc := 0, npc := 0, nnpc := 0 }

/-- A register of R46 by name: what a launch sets (R402 (3)) and what a system call may write (R341). -/
inductive RegName
  | x (i : Reg)
  | fw (i : Reg)
  | lo
  | hi
  | ea
  | fcsr
  deriving DecidableEq, Repr

/-- A `swl` or `swr` between its two accesses (R68): the word its `MemWrite` is about to store, and where. -/
structure PendingStore where
  addr : Word
  value : Word
  deriving DecidableEq, Repr

/-- A hardware thread that is not the one about to step (R384). -/
structure Thread where
  tid : Nat
  core : Nat
  live : Regs
  isSpeculative : Bool
  shadow : Regs
  pendingStore : Option PendingStore
  deriving DecidableEq, Repr

/-- One entry of a core's decode cache (R42): the cache of core `c` is the entries with `core = c`. -/
structure CacheEntry where
  core : Nat
  addr : Word
  inst : StaticInst
  deriving DecidableEq, Repr

/-- One request of the pipeline, each to a thread. -/
inductive Event
  /-- Take a step, or finish the one begun (R384, R390). -/
  | run (thread : Nat)
  /-- Take a step up to its second data access: a `swl` or `swr` stops before its `MemWrite`, so that another thread's
  access may fall in between (R68). Any other instruction has one access, and its step is whole. -/
  | runToStore (thread : Nat)
  /-- `set_speculative(b)` (R10). -/
  | setSpeculative (thread : Nat) (b : Bool)
  /-- `decode(pc)` (R8) in the cache of the thread's core, at any address and with no execution (R373). -/
  | decode (thread : Nat) (pc : Word)
  deriving DecidableEq, Repr

/-- The thread a request is made to. -/
def Event.thread : Event → Nat
  | .run t => t
  | .runToStore t => t
  | .setSpeculative t _ => t
  | .decode t _ => t

/-- What the host does for a system call that continues (R341): the accesses it makes, address and width, each checked
as a data access is; then `registers'` and `memory'` as what is written over the registers and bytes, in order; the bytes
it writes to its streams; and MAPPED where it changes it (R71), after the accesses. DESIGN CHOICE: the counters are no register of it (log 10), and its
accesses come before its change of MAPPED (log 26). -/
structure HostEffect where
  accesses : List (Word × Nat)
  regs : List (RegName × Word)
  memory : List (Word × Byte)
  out1 : List Byte
  out2 : List Byte
  mapped : Option (List Region)
  deriving DecidableEq, Repr

/-- One outcome of SYSCALL_EFFECT (R341). -/
inductive HostAnswer
  | proceed (e : HostEffect)
  | exit (status : Word)
  | refuse
  deriving DecidableEq, Repr

/-- The group of an unimplemented marker (R105). -/
inductive MarkerGroup
  | generic
  | cp0
  | cp1
  | cp2
  deriving DecidableEq, Repr

/-- The twelve fault kinds of R371, each with the pc R370 records and the info R371 gives. Raising one gives the NEXT state
whose fault record holds it (R370, R376); `step` answers `fault` with it from then on, since no step is taken. All are
safe: they are the spec's own. -/
inductive Fault
  /-- Code 1: a fetched byte is unmapped. Raised by the fetch of a decode-cache miss (R66). Safe. -/
  | fetchUnmapped (pc : Word)
  /-- Code 2: `pc mod 4 != 0` at a fetch. Raised by the fetch of a decode-cache miss (R66). Safe. -/
  | fetchMisaligned (pc : Word)
  /-- Code 3: execution of `Unknown` (R358), with the word. Safe. -/
  | unknownInstruction (pc : Word) (word : Word)
  /-- Code 4: execution of a marker or sentinel (R359, R360), `sync` under SYNC_MODE = fault (R344), a trap under
  TRAP_MODE = unimplemented (R345), with `group:mnemonic`. Safe. -/
  | unimplemented (pc : Word) (group : MarkerGroup) (mnemonic : String)
  /-- Code 5: a data byte is unmapped. Raised by every load and store and by the host's accesses (R62, R63, R341), with
  the address. Safe. -/
  | dataUnmapped (pc : Word) (addr : Word)
  /-- Code 6: a data address is no multiple of the width. Raised by the accesses of width 2, 4 and 8 (R62, R63), with the
  address. Safe. -/
  | dataMisaligned (pc : Word) (addr : Word)
  /-- Code 7: a trap condition holds (R346 to R357), with the mnemonic. Safe. -/
  | trap (pc : Word) (mnemonic : String)
  /-- Code 8: `break` (R343), with the CODE field. Safe. -/
  | breakpoint (pc : Word) (code : BitVec 20)
  /-- Code 9: a division corner under DIV_ZERO or DIV_OVF = fault (R158, R159), with the mnemonic. Safe. -/
  | divideCorner (pc : Word) (mnemonic : String)
  /-- Code 10: `jalr` with rd = rs, `bltzal`/`bgezal` with rs = 31, under the setting `fault` (R214, R215, R223), with the
  mnemonic. Safe. -/
  | unpredictableOperands (pc : Word) (mnemonic : String)
  /-- Code 11: an internal invariant violation (R24, R129). Raised by no instruction: by the bounds-checked accessors and
  by a caller that needs the target of a non-control kind. Safe. -/
  | invariant (pc : Word) (description : String)
  /-- Code 12: `cfc1`/`ctc1` outside their gate under CP1CTL_UNGATED = fault (R287, R288), with the mnemonic. Safe. -/
  | cp1ControlUngated (pc : Word) (mnemonic : String)
  deriving DecidableEq, Repr

/-- How a run ended other than by a fault (R391). -/
inductive RunEnd
  /-- `Exit(status)` (R392). -/
  | exited (status : Word)
  /-- `HostRefused(n)` (R341, R391). -/
  | hostRefused (n : Word)
  /-- `Halted`: the thread about to step has `pc = LAUNCH.halt_pc` (R391). -/
  | halted
  deriving DecidableEq, Repr

/-- Why the model takes no step. -/
inductive Refusal
  /-- Raised by `exec`'s arm of an instruction that has no meaning yet. Safe. No arm of this model raises it. -/
  | notModelled (mnemonic : String)
  /-- Raised by `step` when the run has ended: no further step is taken (R391). Safe. -/
  | runEnded (how : RunEnd)
  /-- Raised by `step` when the schedule names a thread the launch did not give (R384). Safe. -/
  | noSuchThread (thread : Nat)
  /-- Raised by `step` when the schedule asks for `set_speculative` of a thread between the two accesses of its `swl` or
  `swr`: the pipeline calls it between instructions (log 16). Safe. -/
  | midInstruction (thread : Nat)
  deriving DecidableEq, Repr

/-- The machine. The thread about to step stands in the fields `tid` to `shadow`; every other thread in `others`. -/
structure State where
  /-- The thread's name (R13, R384). -/
  tid : Nat
  /-- The thread's core (R13, R384): whose decode cache it uses. -/
  core : Nat
  /-- The thread's live registers (R20). -/
  live : Regs
  /-- `is_speculative` (R20, R38 to R40). -/
  isSpeculative : Bool
  /-- The shadow copy `rec` (R37). -/
  shadow : Regs
  /-- The store a `swl` or `swr` of the thread has still to make (R68); none between instructions. -/
  pendingStore : Option PendingStore
  /-- Every other thread (R384). -/
  others : List Thread
  /-- The one memory all threads share (R61). -/
  mem : Memory
  /-- MAPPED (R71): an address is mapped iff some region holds it. -/
  mapped : List Region
  /-- The decode caches of all cores (R42). -/
  decodeCache : List CacheEntry
  /-- The parameters of R16. No step changes them. -/
  params : Config.Params
  /-- LAUNCH.halt_pc (R402, R391). -/
  haltPc : Option Word
  /-- What the pipeline asks for next; empty: the same thread steps (R390). -/
  schedule : List Event
  /-- SYSCALL_EFFECT (R16, R341): what the host answers to the next system calls; empty: by the default host table. -/
  hostAnswers : List HostAnswer
  /-- The fault record (R49, R372). -/
  faultRecord : Option Fault
  /-- The warning log (R49, R172): pc and mnemonic, oldest first. -/
  warnings : List (Word × String)
  /-- Set by the `syscall` that ends the run (R391, R392). -/
  runEnd : Option RunEnd
  /-- Bytes written to host stream 1 (R341, R393), oldest first. -/
  hostOut1 : List Byte
  /-- Bytes written to host stream 2 (R341, R393), oldest first. -/
  hostOut2 : List Byte
  /-- The model's own: how many free values the run has used. -/
  draws : Nat
  deriving DecidableEq, Repr

/-- The machine right after reset (R47, R400) under the default launch: registers 0, caches, record and log empty, the
parameters at their defaults. DESIGN CHOICE, unsafe: the entry (log 3), the whole address space mapped (log 4), one
thread and no schedule (log 6). -/
def State.reset : State :=
  { tid := 0
    core := 0
    live := Regs.atEntry Config.launchEntry
    isSpeculative := false
    shadow := Regs.zero
    pendingStore := none
    others := []
    mem := []
    mapped := [{ base := 0, size := 2 ^ 32 }]
    decodeCache := []
    params := Config.Params.default
    haltPc := none
    schedule := []
    hostAnswers := []
    faultRecord := none
    warnings := []
    runEnd := none
    hostOut1 := []
    hostOut2 := []
    draws := 0 }

/-- The outcome of an instruction or a step. -/
abbrev Res := Host.Outcome State Fault Refusal

end Sys2Proof.Machine
end

