-- ==== Sys2Proof/Machine/Ops.lean ====
section
/-! DEFINITION. The named operations that every meaning is written over: memory, registers, the fault of R370 (the one way
an instruction stops), the fetch and the decode cache, the advance of the counters, speculation and thread selection. -/

namespace Sys2Proof.Machine

/-! ## Memory (R61 to R64) -/

/-- What an unlisted address reads as: "bytes not given are 0" (R402). -/
def Memory.unlisted : Byte := 0

/-- The byte at an address. -/
def Memory.read : Memory → Nat → Byte
  | [], _ => Memory.unlisted
  | (b, v) :: m, a => if b = a then v else Memory.read m a

/-- One byte replaced, the canonical form kept: a byte equal to `unlisted` is not listed. -/
def Memory.write : Memory → Nat → Byte → Memory
  | [], a, v => if v = Memory.unlisted then [] else [(a, v)]
  | (b, w) :: m, a, v =>
    if b = a then Memory.write m a v
    else if b < a ∨ v = Memory.unlisted then (b, w) :: Memory.write m a v
    else (a, v) :: (b, w) :: m

/-- The canonical form, for a list whose addresses are `lo` or more: rising, below 2^32, no listed byte `unlisted`. -/
def Memory.wfFrom : Nat → Memory → Bool
  | _, [] => true
  | lo, (a, v) :: m =>
    decide (lo ≤ a) && decide (a < 2 ^ 32) && decide (v ≠ Memory.unlisted) && Memory.wfFrom (a + 1) m

/-- The canonical form. -/
def Memory.wf (m : Memory) : Bool := Memory.wfFrom 0 m

/-- The byte `read_byte` answers (R60, R62). -/
def Memory.byteAt (m : Memory) (a : Word) : Byte := m.read a.toNat

/-- The little-endian halfword (R62, R64). -/
def Memory.halfAt (m : Memory) (a : Word) : BitVec 16 := m.byteAt (a + 1) ++ m.byteAt a

/-- The little-endian word (R62, R64). -/
def Memory.wordAt (m : Memory) (a : Word) : Word :=
  wordOfBytes (m.byteAt a) (m.byteAt (a + 1)) (m.byteAt (a + 2)) (m.byteAt (a + 3))

/-- The doubleword, the word at `a + 4` high (R64). -/
def Memory.doubleAt (m : Memory) (a : Word) : DWord := m.wordAt (a + 4) ++ m.wordAt a

/-- One byte written (R63). -/
def Memory.setByte (m : Memory) (a : Word) (v : Byte) : Memory := m.write a.toNat v

/-- A halfword written, the low byte at the lower address (R63). -/
def Memory.setHalf (m : Memory) (a : Word) (v : BitVec 16) : Memory :=
  (m.setByte a (v.extractLsb' 0 8)).setByte (a + 1) (v.extractLsb' 8 8)

/-- A word written, the low byte at the lowest address (R63). -/
def Memory.setWord (m : Memory) (a : Word) (v : Word) : Memory :=
  (((m.setByte a (byteOfWord v 0)).setByte (a + 1) (byteOfWord v 1)).setByte (a + 2) (byteOfWord v 2)).setByte (a + 3)
    (byteOfWord v 3)

/-- A doubleword written, its low word at the lower address (R63, R64). -/
def Memory.setDouble (m : Memory) (a : Word) (v : DWord) : Memory :=
  (m.setWord a (v.extractLsb' 0 32)).setWord (a + 4) (v.extractLsb' 32 32)

/-- Bytes written in order: of two values for one address the later stands (log 14). -/
def Memory.setBytes (m : Memory) (bytes : List (Word × Byte)) : Memory := bytes.foldl (fun m p => m.setByte p.1 p.2) m

/-! ## Register updates -/

/-- `x[i] <- v` (R21, R23): cell 0 is written like any other. -/
def Regs.setX (r : Regs) (i : Reg) (v : Word) : Regs := { r with x := r.x.set i.toNat v i.isLt }

/-- `fw[i] <- v` (R32). -/
def Regs.setFw (r : Regs) (i : Reg) (v : Word) : Regs := { r with fw := r.fw.set i.toNat v i.isLt }

/-- `lo <- v` (R43). -/
def Regs.setLo (r : Regs) (v : Word) : Regs := { r with lo := v }

/-- `hi <- v` (R43). -/
def Regs.setHi (r : Regs) (v : Word) : Regs := { r with hi := v }

/-- `ea <- v` (R44). -/
def Regs.setEa (r : Regs) (v : Word) : Regs := { r with ea := v }

/-- `fcsr <- v` (R31). -/
def Regs.setFcsr (r : Regs) (v : Word) : Regs := { r with fcsr := v }

/-- `npc <- v` (R203). -/
def Regs.setNpc (r : Regs) (v : Word) : Regs := { r with npc := v }

/-- `nnpc <- v` (R202). -/
def Regs.setNnpc (r : Regs) (v : Word) : Regs := { r with nnpc := v }

/-- The counters of a step that completed: `pc <- npc; npc <- nnpc; nnpc <- u32(nnpc + 4)` (R28). -/
def Regs.advance (r : Regs) : Regs := { r with pc := r.npc, npc := r.nnpc, nnpc := r.nnpc + 4 }

/-- `x[i]` of a register set. -/
def Regs.getX (r : Regs) (i : Reg) : Word := r.x[i.toNat]'i.isLt

/-- `fw[i]` of a register set. -/
def Regs.getFw (r : Regs) (i : Reg) : Word := r.fw[i.toNat]'i.isLt

/-- A named register read (R46). -/
def Regs.getNamed (r : Regs) : RegName → Word
  | .x i => r.getX i
  | .fw i => r.getFw i
  | .lo => r.lo
  | .hi => r.hi
  | .ea => r.ea
  | .fcsr => r.fcsr

/-- A named register written (R46). -/
def Regs.setNamed (r : Regs) (n : RegName) (v : Word) : Regs :=
  match n with
  | .x i => r.setX i v
  | .fw i => r.setFw i v
  | .lo => r.setLo v
  | .hi => r.setHi v
  | .ea => r.setEa v
  | .fcsr => r.setFcsr v

/-- Named registers written in order: of two values for one register the later stands (log 14). -/
def Regs.setAll (r : Regs) (values : List (RegName × Word)) : Regs := values.foldl (fun r p => r.setNamed p.1 p.2) r

/-! ## State updates -/

/-- The live registers replaced. -/
def State.setLive (s : State) (r : Regs) : State := { s with live := r }

/-- The memory replaced. -/
def State.setMem (s : State) (m : Memory) : State := { s with mem := m }

/-- `Warn` (R172, R378): `(pc, mnemonic)` appended to the warning log. -/
def State.warn (s : State) (mnemonic : String) : State :=
  { s with warnings := s.warnings ++ [(s.live.pc, mnemonic)] }

/-- The fault record set if it is empty (R370). -/
def State.recordFault (s : State) (f : Fault) : State := { s with faultRecord := some (s.faultRecord.getD f) }

/-- The end of the run set (R391). -/
def State.endRun (s : State) (e : RunEnd) : State := { s with runEnd := some e }

/-- Bytes appended to host stream 1 (R341). -/
def State.appendOut1 (s : State) (bytes : List Byte) : State := { s with hostOut1 := s.hostOut1 ++ bytes }

/-- Bytes appended to host stream 2 (R341). -/
def State.appendOut2 (s : State) (bytes : List Byte) : State := { s with hostOut2 := s.hostOut2 ++ bytes }

/-- `n` free values used (log 2). -/
def State.useDraws (s : State) (n : Nat) : State := { s with draws := s.draws + n }

/-- An entry put in front of the decode cache (R42). -/
def State.cacheInsert (s : State) (e : CacheEntry) : State := { s with decodeCache := e :: s.decodeCache }

/-- The schedule replaced. -/
def State.setSchedule (s : State) (es : List Event) : State := { s with schedule := es }

/-- The host's answers replaced. -/
def State.setHostAnswers (s : State) (as : List HostAnswer) : State := { s with hostAnswers := as }

/-- MAPPED replaced: only the host does this (R71). -/
def State.setMapped (s : State) (rs : List Region) : State := { s with mapped := rs }

/-- The store still to be made replaced (R68). -/
def State.setPendingStore (s : State) (p : Option PendingStore) : State := { s with pendingStore := p }

/-- `x[i]` of the thread (R21). -/
abbrev State.reg (s : State) (i : Reg) : Word := s.live.getX i

/-- `F.w[i]` of the thread, the raw single view (R33). -/
abbrev State.fw (s : State) (i : Reg) : Word := s.live.getFw i

/-- `x[i] <- v`. -/
abbrev State.setReg (s : State) (i : Reg) (v : Word) : State := s.setLive (s.live.setX i v)

/-- `F.w[i] <- v` (R33). -/
abbrev State.setFw (s : State) (i : Reg) (v : Word) : State := s.setLive (s.live.setFw i v)

/-- `lo <- v`. -/
abbrev State.setLo (s : State) (v : Word) : State := s.setLive (s.live.setLo v)

/-- `hi <- v`. -/
abbrev State.setHi (s : State) (v : Word) : State := s.setLive (s.live.setHi v)

/-- `ea <- v`. -/
abbrev State.setEa (s : State) (v : Word) : State := s.setLive (s.live.setEa v)

/-- `fcsr <- v`. -/
abbrev State.setFcsr (s : State) (v : Word) : State := s.setLive (s.live.setFcsr v)

/-- `npc <- v`. -/
abbrev State.setNpc (s : State) (v : Word) : State := s.setLive (s.live.setNpc v)

/-- `nnpc <- v`: `do_branch` (R202). -/
abbrev State.setNnpc (s : State) (v : Word) : State := s.setLive (s.live.setNnpc v)

/-- `x[0] <- 0`, made immediately before every execute (R23, R340). -/
abbrev State.clearZero (s : State) : State := s.setReg 0 0

/-- The counters advance (R28). -/
abbrev State.advance (s : State) : State := s.setLive s.live.advance

/-! ## Faults (R370, R376) -/

/-- `raise Fault(kind, info)` (R370): the instruction stops here, the fault record is set if it is empty, and the counters
stay (R376). The NEXT state is the one R376 describes; `step` takes no step from it (log 1). -/
def raise (f : Fault) (s : State) : Res := .next (s.recordFault f)

/-- No further step is taken: a fault was raised or a `syscall` ended the run (R370, R391). -/
def State.stopped (s : State) : Bool := s.faultRecord.isSome || s.runEnd.isSome

/-- How a step asked of an ended run is answered, in R391's order: `Exit`, then `Faulted`, then `HostRefused`. -/
def State.answerIfEnded (s : State) : Option Res :=
  match s.runEnd, s.faultRecord with
  | some (.exited status), _ => some (.refused (.runEnded (.exited status)))
  | _, some f => some (.fault f)
  | some e, none => some (.refused (.runEnded e))
  | none, none => none

/-- What a step makes of its instruction's result: the counters advance, unless the run stopped (R28, R376, R392) or the
instruction has still to store (R68). DESIGN CHOICE (log 21): they do not advance in the step of a `syscall` that the host
refuses, on which R28, R341 and R391 are silent (R28 exempts faults, R392 `Exit`). -/
def finishStep : Res → Res
  | .next s => .next (if s.stopped || s.pendingStore.isSome then s else s.advance)
  | .fault f => .fault f
  | .refused r => .refused r

/-! ## Data accesses (R62, R63, R65) -/

/-- `MAPPED(a)` (R71). -/
def State.isMapped (s : State) (a : Word) : Bool :=
  s.mapped.any fun r => decide (r.base ≤ a.toNat) && decide (a.toNat < r.base + r.size)

/-- Every byte `u32(a + i)`, `i` below `n`, is mapped. -/
def State.rangeMapped (s : State) (a : Word) (n : Nat) : Bool :=
  (List.range n).all fun i => s.isMapped (a + BitVec.ofNat 32 i)

/-- The two checks of `MemRead` and `MemWrite`, in their order (R62, R63, R375). -/
def State.accessFault (s : State) (a : Word) (n : Nat) : Option Fault :=
  if a.toNat % n ≠ 0 then some (.dataMisaligned s.live.pc a)
  else if !s.rangeMapped a n then some (.dataUnmapped s.live.pc a)
  else none

/-- The access of a load or store: `ea` is written first (R241), then the checks; `k` is what the access does. -/
def State.accessing (s : State) (a : Word) (n : Nat) (k : State → Res) : Res :=
  match s.accessFault a n with
  | some f => raise f (s.setEa a)
  | none => k (s.setEa a)

/-! ## Fetch and the decode cache (R42, R66, R101) -/

/-- The fetch of a decode-cache miss (R66). -/
def State.fetchFault (s : State) (pc : Word) : Option Fault :=
  if pc.toNat % 4 ≠ 0 then some (.fetchMisaligned pc)
  else if !s.rangeMapped pc 4 then some (.fetchUnmapped pc)
  else none

/-- The decode cache's entry for an address, in the cache of the thread's core (R42). -/
def State.cacheLookup (s : State) (pc : Word) : Option StaticInst :=
  (s.decodeCache.find? fun e => decide (e.core = s.core) && decide (e.addr = pc)).map CacheEntry.inst

/-- `decode(pc)` (R8, R101): the cached instruction, or the word fetched, decoded and inserted. -/
def State.decodeAt (s : State) (pc : Word) : Except Fault (StaticInst × State) :=
  match s.cacheLookup pc with
  | some inst => .ok (inst, s)
  | none =>
    match s.fetchFault pc with
    | some f => .error f
    | none =>
      let inst := decodeStatic (s.mem.wordAt pc)
      .ok (inst, s.cacheInsert { core := s.core, addr := pc, inst := inst })

/-- The decode of a step, at the thread's own `pc` (R28). DESIGN CHOICE (log 22): beside it the pipeline may decode at any
address, outside a step, by the event `decode`. -/
def State.decode (s : State) : Except Fault (StaticInst × State) := s.decodeAt s.live.pc

/-- A word placed where the thread fetches next: for the host's questions about one instruction (log 9). The address is
mapped, the core's cache entry for it dropped, and nothing stands between the thread and its step. -/
def State.placeWord (s : State) (w : Word) : State :=
  { s with
    mem := s.mem.setWord s.live.pc w
    mapped := if s.rangeMapped s.live.pc 4 then s.mapped else { base := s.live.pc.toNat, size := 4 } :: s.mapped
    decodeCache := s.decodeCache.filter fun e => !(decide (e.core = s.core) && decide (e.addr = s.live.pc))
    schedule := []
    pendingStore := none
    haltPc := if s.haltPc = some s.live.pc then none else s.haltPc }

/-! ## Speculation (R38 to R40) -/

/-- `set_speculative(b)`: a snapshot on entering, the snapshot restored on leaving, nothing where `b` is already set. -/
def State.setSpeculative (s : State) (b : Bool) : State :=
  match b, s.isSpeculative with
  | true, false => { s with shadow := s.live, isSpeculative := true }
  | false, true => { s with live := s.shadow, isSpeculative := false }
  | true, true => s
  | false, false => s

/-! ## Threads (R384) -/

/-- The thread about to step, as an entry of `others`. -/
def State.currentThread (s : State) : Thread :=
  { tid := s.tid, core := s.core, live := s.live, isSpeculative := s.isSpeculative, shadow := s.shadow,
    pendingStore := s.pendingStore }

/-- A thread made the one about to step; the one that was takes its place in `others`. -/
def State.swapIn (s : State) (t : Thread) : State :=
  { s with
    tid := t.tid, core := t.core, live := t.live, isSpeculative := t.isSpeculative, shadow := t.shadow
    pendingStore := t.pendingStore
    others := s.others.map fun u => if u.tid = t.tid then s.currentThread else u }

/-- The thread of a name made the one about to step. -/
def State.selectThread (s : State) (tid : Nat) : Option State :=
  if s.tid = tid then some s
  else (s.others.find? fun t => decide (t.tid = tid)).map s.swapIn

/-! ## Register files by index (R24, R46) -/

/-- A register identifier of the dependency lists (R46). -/
inductive RegKind
  | integer
  | float
  | misc
  deriving DecidableEq, Repr

/-- `kind, index` of R46. -/
structure RegId where
  kind : RegKind
  index : Nat
  deriving DecidableEq, Repr

/-- The bounds-checked read of a register file: an index outside it is the fault INVARIANT (R24). -/
def State.readIndexed (s : State) (r : RegId) : Except Fault Word :=
  let bad : Except Fault Word := .error (.invariant s.live.pc "register index")
  match r.kind with
  | .integer => if h : r.index < 32 then .ok s.live.x[r.index] else bad
  | .float => if h : r.index < 32 then .ok s.live.fw[r.index] else bad
  | .misc =>
    match r.index with
    | 0 => .ok s.live.lo
    | 1 => .ok s.live.hi
    | 2 => .ok s.live.ea
    | 3 => .ok s.live.fcsr
    | _ => bad

/-- The bounds-checked write of a register file (R24). -/
def State.writeIndexed (s : State) (r : RegId) (v : Word) : Res :=
  let bad : Res := raise (.invariant s.live.pc "register index") s
  match r.kind with
  | .integer => if r.index < 32 then .next (s.setReg (BitVec.ofNat 5 r.index) v) else bad
  | .float => if r.index < 32 then .next (s.setFw (BitVec.ofNat 5 r.index) v) else bad
  | .misc =>
    match r.index with
    | 0 => .next (s.setLo v)
    | 1 => .next (s.setHi v)
    | 2 => .next (s.setEa v)
    | 3 => .next (s.setFcsr v)
    | _ => bad

end Sys2Proof.Machine
end

