-- ==== Sys2Proof/Machine/Operands.lean ====
section
/-! DEFINITION. Every operand form of the spec: immediates (R98), effective addresses (R240, R244), branch and jump targets
(R99, R201, R220), shift amounts, partial-word masks (R17) and the double views of the float bank (R34). -/

namespace Sys2Proof.Machine

/-- `sext_imm` (R98). -/
def sextImm (imm : BitVec 16) : Word := imm.signExtend 32

/-- `zext_imm` (R98). -/
def zextImm (imm : BitVec 16) : Word := imm.setWidth 32

/-- `INTIMM << 16` (R98, R171). -/
def upperImm (imm : BitVec 16) : Word := imm ++ 0#16

/-- The shift amount `x[rs][4:0]` of the variable shifts (R99, R143). -/
def shiftAmount (v : Word) : Nat := (v.extractLsb' 0 5).toNat

/-- `EA = u32(x[rs] + sext_16(OFFSET))` (R240). -/
def State.effAddr (s : State) (base : Reg) (offset : BitVec 16) : Word := s.reg base + sextImm offset

/-- `A = EA & 0xFFFFFFFC` (R244). -/
def alignWord (a : Word) : Word := a &&& 0xFFFFFFFC#32

/-- `byte_offset = EA & 3` (R244). -/
def byteOffset (a : Word) : Nat := (a &&& 3#32).toNat

/-- `mask(n) = (1 << n) - 1` as a 32-bit value (R17). -/
def maskLow (n : Nat) : Word := 1#32 <<< n - 1

/-- `disp = sext_18(OFFSET << 2)` (R99, R201). -/
def branchDisp (offset : BitVec 16) : Word := (offset ++ 0#2).signExtend 32

/-- `target = u32(npc + disp)` (R201). -/
def State.branchTarget (s : State) (offset : BitVec 16) : Word := s.live.npc + branchDisp offset

/-- `(npc & 0xF0000000) | (JMPTARG << 2)` (R99, R220), for a given `npc`. -/
def jumpTargetFrom (npc : Word) (target : BitVec 26) : Word := npc.extractLsb' 28 4 ++ target ++ 0#2

/-- The jump target in the region of the delay slot (R220). -/
def State.jumpTarget (s : State) (target : BitVec 26) : Word := jumpTargetFrom s.live.npc target

/-- `k = 2 * floor(i / 2)`: the even word of a pair, its low half (R34). -/
def pairLow (i : Reg) : Reg := i &&& 0x1E#5

/-- `k + 1`: the odd word of a pair, its high half (R34). -/
def pairHigh (i : Reg) : Reg := i ||| 1#5

/-- `F.l[i] = fw[k+1] ++ fw[k]` (R34). -/
def State.fl (s : State) (i : Reg) : DWord := s.fw (pairHigh i) ++ s.fw (pairLow i)

/-- `F.l[i] <- v`: both words of the pair (R34). -/
def State.setFl (s : State) (i : Reg) (v : DWord) : State :=
  (s.setFw (pairLow i) (v.extractLsb' 0 32)).setFw (pairHigh i) (v.extractLsb' 32 32)

end Sys2Proof.Machine
end

