-- ==== Sys2Proof/Machine/Flags.lean ====
section
/-! DEFINITION. Every flag computation: the condition bits of fcsr (R30), the overflow test (R172), the compare condition
(R316), and the free values an undetermined floating-point result is (R282, R283). -/

namespace Sys2Proof.Machine

/-- The bit of `fcsr` that `FCC(n)` is: 23 for `n = 0`, else `24 + n` (R30). -/
def fccBit (n : BitVec 3) : Nat := if n = 0 then 23 else 24 + n.toNat

/-- The word with the one bit of `FCC(n)`. -/
def fccMask (n : BitVec 3) : Word := 1#32 <<< fccBit n

/-- `FCC(n)` of a value of fcsr (R30). -/
def fccOf (fcsr : Word) (n : BitVec 3) : Bool := fcsr.getLsbD (fccBit n)

/-- fcsr with `FCC(n) <- b`, the other 31 bits unchanged (R30). -/
def fcsrWith (fcsr : Word) (n : BitVec 3) (b : Bool) : Word :=
  if b then fcsr ||| fccMask n else fcsr &&& ~~~fccMask n

/-- `FCC(n)` of the thread. -/
def State.fcc (s : State) (n : BitVec 3) : Bool := fccOf s.live.fcsr n

/-- `FCC(n) <- b`. -/
def State.setFcc (s : State) (n : BitVec 3) (b : Bool) : State := s.setFcsr (fcsrWith s.live.fcsr n b)

/-- A mathematical result outside the signed 32-bit range (R172). -/
def outOfRange32 (r : Int) : Bool := decide (r < -2 ^ 31) || decide (2 ^ 31 ≤ r)

/-- The overflow test and warning of `add`, `addi`, `sub` (R172): it changes the log and nothing else. -/
def State.warnOverflow (s : State) (r : Int) (mnemonic : String) : State :=
  if outOfRange32 r then s.warn mnemonic else s

/-- The condition of a compare: `COND[2]` and less, or `COND[1]` and equal, or `COND[0]` and unordered (R316). `COND[3]`
changes nothing. -/
def condHolds (cond : BitVec 4) (o : FloatOrder) : Bool :=
  match o with
  | .less => cond.getLsbD 2
  | .equal => cond.getLsbD 1
  | .unordered => cond.getLsbD 0
  | .greater => false

/-- The binary32 NaN encoding a free word stands for: any of them (R282), so exponent all ones and fraction nonzero. -/
def nanSingle (d : Word) : Word :=
  if d.extractLsb' 0 23 = 0 then d.extractLsb' 31 1 ++ 0xFF#8 ++ 1#23
  else d.extractLsb' 31 1 ++ 0xFF#8 ++ d.extractLsb' 0 23

/-- The binary64 NaN encoding a free doubleword stands for: any of them (R282). -/
def nanDouble (d : DWord) : DWord :=
  if d.extractLsb' 0 52 = 0 then d.extractLsb' 63 1 ++ 0x7FF#11 ++ 1#52
  else d.extractLsb' 63 1 ++ 0x7FF#11 ++ d.extractLsb' 0 52

/-- A binary32 NaN encoding (R282). -/
def isNaNSingle (v : Word) : Bool := v.extractLsb' 23 8 == 0xFF#8 && v.extractLsb' 0 23 != 0

/-- A binary64 NaN encoding (R282). -/
def isNaNDouble (v : DWord) : Bool := v.extractLsb' 52 11 == 0x7FF#11 && v.extractLsb' 0 52 != 0

/-- The next free word of the run. -/
def State.drawWord (s : State) : Word := Config.freeWord s.draws

/-- The next free doubleword of the run. -/
def State.drawDouble (s : State) : DWord := Config.freeDWord s.draws

end Sys2Proof.Machine
end

