-- ==== Sys2Proof/Machine/Alu.lean ====
section
/-! DEFINITION. The integer ALU instructions (R140 to R155, R164 to R172). -/

namespace Sys2Proof.Machine

/-- A register form: `x[rd] <- f(x[rs], x[rt])`, the operands read before the write (R18). -/
def aluReg (f : Word → Word → Word) (rd rs rt : Reg) (s : State) : Res :=
  .next (s.setReg rd (f (s.reg rs) (s.reg rt)))

/-- An immediate form: `x[rt] <- f(x[rs], k)` for the extended immediate `k` (R98). -/
def aluImm (f : Word → Word → Word) (rt rs : Reg) (k : Word) (s : State) : Res :=
  .next (s.setReg rt (f (s.reg rs) k))

/-- A shift by an amount: `x[rd] <- f(x[rt], sa)`. -/
def shiftBy (f : Word → Nat → Word) (rd rt : Reg) (sa : Nat) (s : State) : Res :=
  .next (s.setReg rd (f (s.reg rt) sa))

/-- An addition or subtraction with the overflow warning (R172): `r` is the mathematical result; the warning does not
stop the write of `u32(r)`. -/
def warnedWrite (mnemonic : String) (d : Reg) (r : Int) (s : State) : Res :=
  .next ((s.warnOverflow r mnemonic).setReg d (BitVec.ofInt 32 r))

/-- 1 where a condition holds, else 0 (R154). -/
def boolWord (b : Bool) : Word := if b then 1 else 0

/-! ## Shifts -/

/-- `sll` (R140). -/
def execSll (rd rt : Reg) (sa : BitVec 5) (s : State) : Res := shiftBy (fun v n => v <<< n) rd rt sa.toNat s

/-- `srl` (R141). -/
def execSrl (rd rt : Reg) (sa : BitVec 5) (s : State) : Res := shiftBy (fun v n => v >>> n) rd rt sa.toNat s

/-- `sra` (R142). -/
def execSra (rd rt : Reg) (sa : BitVec 5) (s : State) : Res := shiftBy (fun v n => v.sshiftRight n) rd rt sa.toNat s

/-- `sllv` (R143): by the low five bits of `x[rs]`. -/
def execSllv (rd rt rs : Reg) (s : State) : Res := shiftBy (fun v n => v <<< n) rd rt (shiftAmount (s.reg rs)) s

/-- `srlv` (R144). -/
def execSrlv (rd rt rs : Reg) (s : State) : Res := shiftBy (fun v n => v >>> n) rd rt (shiftAmount (s.reg rs)) s

/-- `srav` (R145). -/
def execSrav (rd rt rs : Reg) (s : State) : Res :=
  shiftBy (fun v n => v.sshiftRight n) rd rt (shiftAmount (s.reg rs)) s

/-! ## Register forms -/

/-- `add` (R146): wraps; a signed overflow warns. -/
def execAdd (rd rs rt : Reg) (s : State) : Res := warnedWrite "add" rd ((s.reg rs).toInt + (s.reg rt).toInt) s

/-- `addu` (R147). -/
def execAddu (rd rs rt : Reg) (s : State) : Res := aluReg (fun a b => a + b) rd rs rt s

/-- `sub` (R148): wraps; a signed overflow warns. -/
def execSub (rd rs rt : Reg) (s : State) : Res := warnedWrite "sub" rd ((s.reg rs).toInt - (s.reg rt).toInt) s

/-- `subu` (R149). -/
def execSubu (rd rs rt : Reg) (s : State) : Res := aluReg (fun a b => a - b) rd rs rt s

/-- `and` (R150). -/
def execAnd (rd rs rt : Reg) (s : State) : Res := aluReg (fun a b => a &&& b) rd rs rt s

/-- `or` (R151). -/
def execOr (rd rs rt : Reg) (s : State) : Res := aluReg (fun a b => a ||| b) rd rs rt s

/-- `xor` (R152). -/
def execXor (rd rs rt : Reg) (s : State) : Res := aluReg (fun a b => a ^^^ b) rd rs rt s

/-- `nor` (R153). -/
def execNor (rd rs rt : Reg) (s : State) : Res := aluReg (fun a b => ~~~(a ||| b)) rd rs rt s

/-- `slt` (R154), signed. -/
def execSlt (rd rs rt : Reg) (s : State) : Res := aluReg (fun a b => boolWord (a.slt b)) rd rs rt s

/-- `sltu` (R155), unsigned. -/
def execSltu (rd rs rt : Reg) (s : State) : Res := aluReg (fun a b => boolWord (a.ult b)) rd rs rt s

/-! ## Immediate forms -/

/-- `addi` (R164): wraps; a signed overflow warns. -/
def execAddi (rt rs : Reg) (imm : BitVec 16) (s : State) : Res :=
  warnedWrite "addi" rt ((s.reg rs).toInt + (sextImm imm).toInt) s

/-- `addiu` (R165). -/
def execAddiu (rt rs : Reg) (imm : BitVec 16) (s : State) : Res := aluImm (fun a b => a + b) rt rs (sextImm imm) s

/-- `slti` (R166), signed. -/
def execSlti (rt rs : Reg) (imm : BitVec 16) (s : State) : Res :=
  aluImm (fun a b => boolWord (a.slt b)) rt rs (sextImm imm) s

/-- The immediate of `sltiu` under SLTIU_IMM (R167). -/
def sltiuImm (mode : Config.SltiuImm) (imm : BitVec 16) : Word :=
  match mode with
  | .zext => zextImm imm
  | .sext => sextImm imm

/-- `sltiu` (R167), unsigned. -/
def execSltiu (rt rs : Reg) (imm : BitVec 16) (s : State) : Res :=
  aluImm (fun a b => boolWord (a.ult b)) rt rs (sltiuImm s.params.sltiuImm imm) s

/-- `andi` (R168). -/
def execAndi (rt rs : Reg) (imm : BitVec 16) (s : State) : Res := aluImm (fun a b => a &&& b) rt rs (zextImm imm) s

/-- `ori` (R169). -/
def execOri (rt rs : Reg) (imm : BitVec 16) (s : State) : Res := aluImm (fun a b => a ||| b) rt rs (zextImm imm) s

/-- `xori` (R170). -/
def execXori (rt rs : Reg) (imm : BitVec 16) (s : State) : Res := aluImm (fun a b => a ^^^ b) rt rs (zextImm imm) s

/-- `lui` (R171). -/
def execLui (rt : Reg) (imm : BitVec 16) (s : State) : Res := .next (s.setReg rt (upperImm imm))

end Sys2Proof.Machine
end

