-- ==== Sys2Proof/Machine/Branch.lean ====
section
/-! DEFINITION. The branches and jumps (R200 to R223), over npc and nnpc. -/

namespace Sys2Proof.Machine

/-- A conditional branch: taken, `nnpc <- target`; not taken, nothing (R202). -/
def branchIf (cond : Bool) (offset : BitVec 16) (s : State) : Res :=
  .next (if cond then s.setNnpc (s.branchTarget offset) else s)

/-- A likely branch: taken as `branchIf`; not taken, the delay slot is skipped (R203). -/
def branchLikelyIf (cond : Bool) (offset : BitVec 16) (s : State) : Res :=
  .next
    (if cond then s.setNnpc (s.branchTarget offset)
    else (s.setNpc (s.live.npc + 4)).setNnpc (s.live.nnpc + 4))

/-- A link and a jump: the return address `nnpc` into a register before `nnpc <- target` (R204). The target and the
condition are computed by the caller from the state before the link. -/
def linkThenJump (link : Reg) (target : Word) (s : State) : State :=
  (s.setReg link s.live.nnpc).setNnpc target

/-- A linking conditional branch: the link is written whether or not it is taken (R214). -/
def linkThenBranchIf (cond : Bool) (offset : BitVec 16) (s : State) : Res :=
  .next (if cond then linkThenJump 31 (s.branchTarget offset) s else s.setReg 31 s.live.nnpc)

/-- An operand clash under its parameter: the fault UNPREDICTABLE_OPERANDS before any write, or nothing (R214, R223). -/
def unlessClash (clash : Bool) (mode : Config.LinkClash) (mnemonic : String) (s : State) (k : Res) : Res :=
  match clash, mode with
  | true, .fault => raise (.unpredictableOperands s.live.pc mnemonic) s
  | true, .readFirst => k
  | false, .fault => k
  | false, .readFirst => k

/-- `b` (R206). -/
def execB (offset : BitVec 16) (s : State) : Res := branchIf true offset s

/-- `beq` (R207). -/
def execBeq (rs rt : Reg) (offset : BitVec 16) (s : State) : Res := branchIf (s.reg rs == s.reg rt) offset s

/-- `bne` (R208). -/
def execBne (rs rt : Reg) (offset : BitVec 16) (s : State) : Res := branchIf (s.reg rs != s.reg rt) offset s

/-- `blez` (R209). -/
def execBlez (rs : Reg) (offset : BitVec 16) (s : State) : Res := branchIf (decide ((s.reg rs).toInt ≤ 0)) offset s

/-- `bgtz` (R210). -/
def execBgtz (rs : Reg) (offset : BitVec 16) (s : State) : Res := branchIf (decide (0 < (s.reg rs).toInt)) offset s

/-- `bltz` (R211). -/
def execBltz (rs : Reg) (offset : BitVec 16) (s : State) : Res := branchIf (decide ((s.reg rs).toInt < 0)) offset s

/-- `bgez` (R212). -/
def execBgez (rs : Reg) (offset : BitVec 16) (s : State) : Res := branchIf (decide (0 ≤ (s.reg rs).toInt)) offset s

/-- `bal` (R213). -/
def execBal (offset : BitVec 16) (s : State) : Res := .next (linkThenJump 31 (s.branchTarget offset) s)

/-- `bltzal` (R214). -/
def execBltzal (rs : Reg) (offset : BitVec 16) (s : State) : Res :=
  unlessClash (rs == 31) s.params.linkRs31 "bltzal" s (linkThenBranchIf (decide ((s.reg rs).toInt < 0)) offset s)

/-- `bgezal` (R215). -/
def execBgezal (rs : Reg) (offset : BitVec 16) (s : State) : Res :=
  unlessClash (rs == 31) s.params.linkRs31 "bgezal" s (linkThenBranchIf (decide (0 ≤ (s.reg rs).toInt)) offset s)

/-- `bc1f` (R216). -/
def execBc1f (cc : BitVec 3) (offset : BitVec 16) (s : State) : Res := branchIf (!s.fcc cc) offset s

/-- `bc1t` (R217). -/
def execBc1t (cc : BitVec 3) (offset : BitVec 16) (s : State) : Res := branchIf (s.fcc cc) offset s

/-- `bc1fl` (R218). -/
def execBc1fl (cc : BitVec 3) (offset : BitVec 16) (s : State) : Res := branchLikelyIf (!s.fcc cc) offset s

/-- `bc1tl` (R219). -/
def execBc1tl (cc : BitVec 3) (offset : BitVec 16) (s : State) : Res := branchLikelyIf (s.fcc cc) offset s

/-- `j` (R220). -/
def execJ (target : BitVec 26) (s : State) : Res := .next (s.setNnpc (s.jumpTarget target))

/-- `jal` (R221). -/
def execJal (target : BitVec 26) (s : State) : Res := .next (linkThenJump 31 (s.jumpTarget target) s)

/-- `jr` (R222): all 32 bits, no masking. -/
def execJr (rs : Reg) (s : State) : Res := .next (s.setNnpc (s.reg rs))

/-- `jalr` (R223): the target is read before the link. -/
def execJalr (rd rs : Reg) (s : State) : Res :=
  unlessClash (rd == rs) s.params.jalrRdEqRs "jalr" s (.next (linkThenJump rd (s.reg rs) s))

end Sys2Proof.Machine
end

