-- ==== Sys2Proof/Machine/Fpu.lean ====
section
/-! DEFINITION. The floating-point instructions (R280 to R317). No instruction of this file writes fcsr but `ctc1` (all of
it) and the compares (one bit), and none raises a floating-point fault (R284). -/

namespace Sys2Proof.Machine

/-! ## Shared operations -/

/-- An operation on one operand. -/
abbrev callOne (op : Config.FpOp) (a : DWord) : Config.FpCall := { op := op, a := a, b := 0 }

/-- A 32-bit operand of an operation, in the low half. -/
abbrev low (w : Word) : DWord := w.setWidth 64

/-- A single result written. A number: FP_ARITH's result, by default the encoding `r` (R281). A NaN: FP_NAN's result where it
is a NaN encoding, by default any NaN encoding (R282). -/
def writeSingle (c : Config.FpCall) (fd : Reg) (r : Option Nat) (s : State) : Res :=
  match r with
  | some bits => .next (s.setFw fd (((s.params.fpArith.lookup c).map (·.setWidth 32)).getD (BitVec.ofNat 32 bits)))
  | none =>
    match ((s.params.fpNan.lookup c).map (·.setWidth 32)).filter isNaNSingle with
    | some v => .next (s.setFw fd v)
    | none => .next ((s.setFw fd (nanSingle s.drawWord)).useDraws 1)

/-- A double result written to the pair, by the same rules (R281, R282). -/
def writeDouble (c : Config.FpCall) (fd : Reg) (r : Option Nat) (s : State) : Res :=
  match r with
  | some bits => .next (s.setFl fd ((s.params.fpArith.lookup c).getD (BitVec.ofNat 64 bits)))
  | none =>
    match (s.params.fpNan.lookup c).filter isNaNDouble with
    | some v => .next (s.setFl fd v)
    | none => .next ((s.setFl fd (nanDouble s.drawDouble)).useDraws 1)

/-- A 32-bit integer result: the integer, or where the operand is not one in range FP_TO_INT's result, by default any
pattern (R283). -/
def writeInt32 (c : Config.FpCall) (fd : Reg) (r : Option Int) (s : State) : Res :=
  match r with
  | some i => .next (s.setFw fd (BitVec.ofInt 32 i))
  | none =>
    match s.params.fpToInt.lookup c with
    | some v => .next (s.setFw fd (v.setWidth 32))
    | none => .next ((s.setFw fd s.drawWord).useDraws 1)

/-- A 64-bit integer result, by the same rule (R283). -/
def writeInt64 (c : Config.FpCall) (fd : Reg) (r : Option Int) (s : State) : Res :=
  match r with
  | some i => .next (s.setFl fd (BitVec.ofInt 64 i))
  | none =>
    match s.params.fpToInt.lookup c with
    | some v => .next (s.setFl fd v)
    | none => .next ((s.setFl fd s.drawDouble).useDraws 1)

/-- A two-operand `.s` instruction (R289). -/
def binarySingle (op : Config.FpOp) (ieee : Nat → Nat → Option Nat) (fd fs ft : Reg) (s : State) : Res :=
  writeSingle { op := op, a := low (s.fw fs), b := low (s.fw ft) } fd (ieee (s.fw fs).toNat (s.fw ft).toNat) s

/-- A two-operand `.d` instruction (R289). -/
def binaryDouble (op : Config.FpOp) (ieee : Nat → Nat → Option Nat) (fd fs ft : Reg) (s : State) : Res :=
  writeDouble { op := op, a := s.fl fs, b := s.fl ft } fd (ieee (s.fl fs).toNat (s.fl ft).toNat) s

/-- A compare of single views: the one bit FCC(cc) (R316). -/
def compareSingle (cond : BitVec 4) (cc : BitVec 3) (fs ft : Reg) (s : State) : Res :=
  .next (s.setFcc cc (condHolds cond (FloatFmt.single.compare (s.fw fs).toNat (s.fw ft).toNat)))

/-- A compare of double views: the one bit FCC(cc) (R317). -/
def compareDouble (cond : BitVec 4) (cc : BitVec 3) (fs ft : Reg) (s : State) : Res :=
  .next (s.setFcc cc (condHolds cond (FloatFmt.double.compare (s.fl fs).toNat (s.fl ft).toNat)))

/-- `ungated` of R287: nothing, or the fault CP1_CONTROL_UNGATED. -/
def ungated (mnemonic : String) (s : State) : Res :=
  match s.params.cp1ctlUngated with
  | .noop => .next s
  | .fault => raise (.cp1ControlUngated s.live.pc mnemonic) s

/-! ## Control moves -/

/-- `mfc1` (R285). -/
def execMfc1 (rt fs : Reg) (s : State) : Res := .next (s.setReg rt (s.fw fs))

/-- `mtc1` (R286). -/
def execMtc1 (rt fs : Reg) (s : State) : Res := .next (s.setFw fs (s.reg rt))

/-- `cfc1` (R287): gated on FS = 31. -/
def execCfc1 (rt fs : Reg) (s : State) : Res :=
  if fs = 31 then .next (s.setReg rt s.live.fcsr) else ungated "cfc1" s

/-- `ctc1` (R288, C1): gated on FS = 0. -/
def execCtc1 (rt fs : Reg) (s : State) : Res :=
  if fs = 0 then .next (s.setFcsr (s.reg rt)) else ungated "ctc1" s

/-! ## Arithmetic -/

/-- `add.s` (R290). -/
def execAddS (fd fs ft : Reg) (s : State) : Res := binarySingle .addS FloatFmt.single.add fd fs ft s

/-- `sub.s` (R291). -/
def execSubS (fd fs ft : Reg) (s : State) : Res := binarySingle .subS FloatFmt.single.sub fd fs ft s

/-- `mul.s` (R292). -/
def execMulS (fd fs ft : Reg) (s : State) : Res := binarySingle .mulS FloatFmt.single.mul fd fs ft s

/-- `div.s` (R293). -/
def execDivS (fd fs ft : Reg) (s : State) : Res := binarySingle .divS FloatFmt.single.div fd fs ft s

/-- `sqrt.s` (R294). -/
def execSqrtS (fd fs : Reg) (s : State) : Res :=
  writeSingle (callOne .sqrtS (low (s.fw fs))) fd (FloatFmt.single.sqrt (s.fw fs).toNat) s

/-- `abs.s` (R295): a bit operation. -/
def execAbsS (fd fs : Reg) (s : State) : Res := .next (s.setFw fd (s.fw fs &&& 0x7FFFFFFF#32))

/-- `mov.s` (R296). -/
def execMovS (fd fs : Reg) (s : State) : Res := .next (s.setFw fd (s.fw fs))

/-- `neg.s` (R297): a bit operation. -/
def execNegS (fd fs : Reg) (s : State) : Res := .next (s.setFw fd (s.fw fs ^^^ 0x80000000#32))

/-- `add.d` (R298). -/
def execAddD (fd fs ft : Reg) (s : State) : Res := binaryDouble .addD FloatFmt.double.add fd fs ft s

/-- `sub.d` (R299). -/
def execSubD (fd fs ft : Reg) (s : State) : Res := binaryDouble .subD FloatFmt.double.sub fd fs ft s

/-- `mul.d` (R300). -/
def execMulD (fd fs ft : Reg) (s : State) : Res := binaryDouble .mulD FloatFmt.double.mul fd fs ft s

/-- `div.d` (R301). -/
def execDivD (fd fs ft : Reg) (s : State) : Res := binaryDouble .divD FloatFmt.double.div fd fs ft s

/-- `sqrt.d` (R302). -/
def execSqrtD (fd fs : Reg) (s : State) : Res :=
  writeDouble (callOne .sqrtD (s.fl fs)) fd (FloatFmt.double.sqrt (s.fl fs).toNat) s

/-- `abs.d` (R303): a bit operation. -/
def execAbsD (fd fs : Reg) (s : State) : Res := .next (s.setFl fd (s.fl fs &&& 0x7FFFFFFFFFFFFFFF#64))

/-- `mov.d` (R304): both words of the pair. -/
def execMovD (fd fs : Reg) (s : State) : Res := .next (s.setFl fd (s.fl fs))

/-- `neg.d` (R305): a bit operation. -/
def execNegD (fd fs : Reg) (s : State) : Res := .next (s.setFl fd (s.fl fs ^^^ 0x8000000000000000#64))

/-! ## Conversions -/

/-- `cvt.d.s` (R306): exact. -/
def execCvtDS (fd fs : Reg) (s : State) : Res :=
  writeDouble (callOne .cvtDS (low (s.fw fs))) fd (FloatFmt.single.convert .double (s.fw fs).toNat) s

/-- `cvt.w.s` (R307). -/
def execCvtWS (fd fs : Reg) (s : State) : Res :=
  writeInt32 (callOne .cvtWS (low (s.fw fs))) fd (FloatFmt.single.toInt? 32 (s.fw fs).toNat) s

/-- `cvt.l.s` (R308). -/
def execCvtLS (fd fs : Reg) (s : State) : Res :=
  writeInt64 (callOne .cvtLS (low (s.fw fs))) fd (FloatFmt.single.toInt? 64 (s.fw fs).toNat) s

/-- `cvt.s.d` (R309). -/
def execCvtSD (fd fs : Reg) (s : State) : Res :=
  writeSingle (callOne .cvtSD (s.fl fs)) fd (FloatFmt.double.convert .single (s.fl fs).toNat) s

/-- `cvt.w.d` (R310). -/
def execCvtWD (fd fs : Reg) (s : State) : Res :=
  writeInt32 (callOne .cvtWD (s.fl fs)) fd (FloatFmt.double.toInt? 32 (s.fl fs).toNat) s

/-- `cvt.l.d` (R311). -/
def execCvtLD (fd fs : Reg) (s : State) : Res :=
  writeInt64 (callOne .cvtLD (s.fl fs)) fd (FloatFmt.double.toInt? 64 (s.fl fs).toNat) s

/-- `cvt.s.w` (R312). -/
def execCvtSW (fd fs : Reg) (s : State) : Res :=
  writeSingle (callOne .cvtSW (low (s.fw fs))) fd (some (FloatFmt.single.ofInt (s.fw fs).toInt)) s

/-- `cvt.d.w` (R313): exact. -/
def execCvtDW (fd fs : Reg) (s : State) : Res :=
  writeDouble (callOne .cvtDW (low (s.fw fs))) fd (some (FloatFmt.double.ofInt (s.fw fs).toInt)) s

/-- `cvt.s.l` (R314): one rounding. -/
def execCvtSL (fd fs : Reg) (s : State) : Res :=
  writeSingle (callOne .cvtSL (s.fl fs)) fd (some (FloatFmt.single.ofInt (s.fl fs).toInt)) s

/-- `cvt.d.l` (R315). -/
def execCvtDL (fd fs : Reg) (s : State) : Res :=
  writeDouble (callOne .cvtDL (s.fl fs)) fd (some (FloatFmt.double.ofInt (s.fl fs).toInt)) s

/-! ## Compares -/

/-- `c.f.s` (R316), COND = 0. -/
def execCFS (cc : BitVec 3) (fs ft : Reg) (s : State) : Res := compareSingle 0 cc fs ft s

/-- `c.un.s` (R316), COND = 1. -/
def execCUnS (cc : BitVec 3) (fs ft : Reg) (s : State) : Res := compareSingle 1 cc fs ft s

/-- `c.eq.s` (R316), COND = 2. -/
def execCEqS (cc : BitVec 3) (fs ft : Reg) (s : State) : Res := compareSingle 2 cc fs ft s

/-- `c.ueq.s` (R316), COND = 3. -/
def execCUeqS (cc : BitVec 3) (fs ft : Reg) (s : State) : Res := compareSingle 3 cc fs ft s

/-- `c.olt.s` (R316), COND = 4. -/
def execCOltS (cc : BitVec 3) (fs ft : Reg) (s : State) : Res := compareSingle 4 cc fs ft s

/-- `c.ult.s` (R316), COND = 5. -/
def execCUltS (cc : BitVec 3) (fs ft : Reg) (s : State) : Res := compareSingle 5 cc fs ft s

/-- `c.ole.s` (R316), COND = 6. -/
def execCOleS (cc : BitVec 3) (fs ft : Reg) (s : State) : Res := compareSingle 6 cc fs ft s

/-- `c.ule.s` (R316), COND = 7. -/
def execCUleS (cc : BitVec 3) (fs ft : Reg) (s : State) : Res := compareSingle 7 cc fs ft s

/-- `c.sf.s` (R316), COND = 8. -/
def execCSfS (cc : BitVec 3) (fs ft : Reg) (s : State) : Res := compareSingle 8 cc fs ft s

/-- `c.ngle.s` (R316), COND = 9. -/
def execCNgleS (cc : BitVec 3) (fs ft : Reg) (s : State) : Res := compareSingle 9 cc fs ft s

/-- `c.seq.s` (R316), COND = 10. -/
def execCSeqS (cc : BitVec 3) (fs ft : Reg) (s : State) : Res := compareSingle 10 cc fs ft s

/-- `c.ngl.s` (R316), COND = 11. -/
def execCNglS (cc : BitVec 3) (fs ft : Reg) (s : State) : Res := compareSingle 11 cc fs ft s

/-- `c.lt.s` (R316), COND = 12. -/
def execCLtS (cc : BitVec 3) (fs ft : Reg) (s : State) : Res := compareSingle 12 cc fs ft s

/-- `c.nge.s` (R316), COND = 13. -/
def execCNgeS (cc : BitVec 3) (fs ft : Reg) (s : State) : Res := compareSingle 13 cc fs ft s

/-- `c.le.s` (R316), COND = 14. -/
def execCLeS (cc : BitVec 3) (fs ft : Reg) (s : State) : Res := compareSingle 14 cc fs ft s

/-- `c.ngt.s` (R316), COND = 15. -/
def execCNgtS (cc : BitVec 3) (fs ft : Reg) (s : State) : Res := compareSingle 15 cc fs ft s

/-- `c.f.d` (R317), COND = 0. -/
def execCFD (cc : BitVec 3) (fs ft : Reg) (s : State) : Res := compareDouble 0 cc fs ft s

/-- `c.un.d` (R317), COND = 1. -/
def execCUnD (cc : BitVec 3) (fs ft : Reg) (s : State) : Res := compareDouble 1 cc fs ft s

/-- `c.eq.d` (R317), COND = 2. -/
def execCEqD (cc : BitVec 3) (fs ft : Reg) (s : State) : Res := compareDouble 2 cc fs ft s

/-- `c.ueq.d` (R317), COND = 3. -/
def execCUeqD (cc : BitVec 3) (fs ft : Reg) (s : State) : Res := compareDouble 3 cc fs ft s

/-- `c.olt.d` (R317), COND = 4. -/
def execCOltD (cc : BitVec 3) (fs ft : Reg) (s : State) : Res := compareDouble 4 cc fs ft s

/-- `c.ult.d` (R317), COND = 5. -/
def execCUltD (cc : BitVec 3) (fs ft : Reg) (s : State) : Res := compareDouble 5 cc fs ft s

/-- `c.ole.d` (R317), COND = 6. -/
def execCOleD (cc : BitVec 3) (fs ft : Reg) (s : State) : Res := compareDouble 6 cc fs ft s

/-- `c.ule.d` (R317), COND = 7. -/
def execCUleD (cc : BitVec 3) (fs ft : Reg) (s : State) : Res := compareDouble 7 cc fs ft s

/-- `c.sf.d` (R317), COND = 8. -/
def execCSfD (cc : BitVec 3) (fs ft : Reg) (s : State) : Res := compareDouble 8 cc fs ft s

/-- `c.ngle.d` (R317), COND = 9. -/
def execCNgleD (cc : BitVec 3) (fs ft : Reg) (s : State) : Res := compareDouble 9 cc fs ft s

/-- `c.seq.d` (R317), COND = 10. -/
def execCSeqD (cc : BitVec 3) (fs ft : Reg) (s : State) : Res := compareDouble 10 cc fs ft s

/-- `c.ngl.d` (R317), COND = 11. -/
def execCNglD (cc : BitVec 3) (fs ft : Reg) (s : State) : Res := compareDouble 11 cc fs ft s

/-- `c.lt.d` (R317), COND = 12. -/
def execCLtD (cc : BitVec 3) (fs ft : Reg) (s : State) : Res := compareDouble 12 cc fs ft s

/-- `c.nge.d` (R317), COND = 13. -/
def execCNgeD (cc : BitVec 3) (fs ft : Reg) (s : State) : Res := compareDouble 13 cc fs ft s

/-- `c.le.d` (R317), COND = 14. -/
def execCLeD (cc : BitVec 3) (fs ft : Reg) (s : State) : Res := compareDouble 14 cc fs ft s

/-- `c.ngt.d` (R317), COND = 15. -/
def execCNgtD (cc : BitVec 3) (fs ft : Reg) (s : State) : Res := compareDouble 15 cc fs ft s

end Sys2Proof.Machine
end

