-- ==== Sys2Proof/Machine/LoadStore.lean ====
section
/-! DEFINITION. The loads and stores (R240 to R262). Each writes `ea` before its access (R241, `State.accessing`). -/

namespace Sys2Proof.Machine

/-- A load of a general register: `x[rt] <- value` of memory at `EA`, an access of `n` bytes. -/
def loadReg (n : Nat) (value : Memory → Word → Word) (rt base : Reg) (offset : BitVec 16) (s : State) : Res :=
  let ea := s.effAddr base offset
  s.accessing ea n fun s => .next (s.setReg rt (value s.mem ea))

/-- A store: memory with `n` bytes at `EA` replaced. -/
def storeMem (n : Nat) (store : Memory → Word → Memory) (base : Reg) (offset : BitVec 16) (s : State) : Res :=
  let ea := s.effAddr base offset
  s.accessing ea n fun s => .next (s.setMem (store s.mem ea))

/-- `lb` (R245). -/
def execLb (rt base : Reg) (offset : BitVec 16) (s : State) : Res :=
  loadReg 1 (fun m a => (m.byteAt a).signExtend 32) rt base offset s

/-- `lbu` (R246). -/
def execLbu (rt base : Reg) (offset : BitVec 16) (s : State) : Res :=
  loadReg 1 (fun m a => (m.byteAt a).setWidth 32) rt base offset s

/-- `lh` (R247). -/
def execLh (rt base : Reg) (offset : BitVec 16) (s : State) : Res :=
  loadReg 2 (fun m a => (m.halfAt a).signExtend 32) rt base offset s

/-- `lhu` (R248). -/
def execLhu (rt base : Reg) (offset : BitVec 16) (s : State) : Res :=
  loadReg 2 (fun m a => (m.halfAt a).setWidth 32) rt base offset s

/-- `lw` (R249). -/
def execLw (rt base : Reg) (offset : BitVec 16) (s : State) : Res :=
  loadReg 4 (fun m a => m.wordAt a) rt base offset s

/-- `ll` (R250, R76): a word load; no reservation exists. -/
def execLl (rt base : Reg) (offset : BitVec 16) (s : State) : Res :=
  loadReg 4 (fun m a => m.wordAt a) rt base offset s

/-- The merge of `lwl` (R251). -/
def mergeLwl (w old : Word) (bo : Nat) : Word :=
  let sh := 24 - 8 * bo
  (w <<< sh) ||| (old &&& maskLow sh)

/-- The merge of `lwr` (R252). -/
def mergeLwr (w old : Word) (bo : Nat) : Word :=
  let sh := 8 * bo
  (old &&& (maskLow sh <<< (32 - sh))) ||| (w >>> sh)

/-- A partial-word load: the aligned word merged into `x[rt]` (R244). -/
def loadPartial (merge : Word → Word → Nat → Word) (rt base : Reg) (offset : BitVec 16) (s : State) : Res :=
  let ea := s.effAddr base offset
  let a := alignWord ea
  s.accessing a 4 fun s => .next (s.setReg rt (merge (s.mem.wordAt a) (s.reg rt) (byteOffset ea)))

/-- `lwl` (R251). -/
def execLwl (rt base : Reg) (offset : BitVec 16) (s : State) : Res := loadPartial mergeLwl rt base offset s

/-- `lwr` (R252). -/
def execLwr (rt base : Reg) (offset : BitVec 16) (s : State) : Res := loadPartial mergeLwr rt base offset s

/-- `lwc1` (R253): the bits unchanged. -/
def execLwc1 (ft base : Reg) (offset : BitVec 16) (s : State) : Res :=
  let ea := s.effAddr base offset
  s.accessing ea 4 fun s => .next (s.setFw ft (s.mem.wordAt ea))

/-- `ldc1` (R254): the pair of `ft`. -/
def execLdc1 (ft base : Reg) (offset : BitVec 16) (s : State) : Res :=
  let ea := s.effAddr base offset
  s.accessing ea 8 fun s => .next (s.setFl ft (s.mem.doubleAt ea))

/-- `sb` (R255). -/
def execSb (rt base : Reg) (offset : BitVec 16) (s : State) : Res :=
  storeMem 1 (fun m a => m.setByte a ((s.reg rt).extractLsb' 0 8)) base offset s

/-- `sh` (R256). -/
def execSh (rt base : Reg) (offset : BitVec 16) (s : State) : Res :=
  storeMem 2 (fun m a => m.setHalf a ((s.reg rt).extractLsb' 0 16)) base offset s

/-- `sw` (R257). -/
def execSw (rt base : Reg) (offset : BitVec 16) (s : State) : Res :=
  storeMem 4 (fun m a => m.setWord a (s.reg rt)) base offset s

/-- `sc` (R258, R76): always stores, then always writes 1. -/
def execSc (rt base : Reg) (offset : BitVec 16) (s : State) : Res :=
  let ea := s.effAddr base offset
  s.accessing ea 4 fun s => .next ((s.setMem (s.mem.setWord ea (s.reg rt))).setReg rt 1)

/-- The merge of `swl` (R259). -/
def mergeSwl (w v : Word) (bo : Nat) : Word :=
  let rsh := 24 - 8 * bo
  let msh := 32 - rsh
  (w &&& (maskLow rsh <<< msh)) ||| (v >>> rsh)

/-- The merge of `swr` (R260). -/
def mergeSwr (w v : Word) (bo : Nat) : Word :=
  let rsh := 8 * bo
  (v <<< rsh) ||| (w &&& maskLow rsh)

/-- A partial-word store whose two accesses follow each other: the aligned word read, merged and written back (R244, R259).
The read's checks are the write's own: same address, same width. `beginStore` and `finishStore` are its halves (R68). -/
def storePartial (merge : Word → Word → Nat → Word) (rt base : Reg) (offset : BitVec 16) (s : State) : Res :=
  let ea := s.effAddr base offset
  let a := alignWord ea
  s.accessing a 4 fun s => .next (s.setMem (s.mem.setWord a (merge (s.mem.wordAt a) (s.reg rt) (byteOffset ea))))

/-- `swl` (R259). -/
def execSwl (rt base : Reg) (offset : BitVec 16) (s : State) : Res := storePartial mergeSwl rt base offset s

/-- `swr` (R260). -/
def execSwr (rt base : Reg) (offset : BitVec 16) (s : State) : Res := storePartial mergeSwr rt base offset s

/-- The first of a partial-word store's two accesses (R68): `ea` written, the aligned word read and merged; its `MemWrite`
is pending. -/
def beginStore (merge : Word → Word → Nat → Word) (rt base : Reg) (offset : BitVec 16) (s : State) : Res :=
  let ea := s.effAddr base offset
  let a := alignWord ea
  s.accessing a 4 fun s =>
    .next (s.setPendingStore (some { addr := a, value := merge (s.mem.wordAt a) (s.reg rt) (byteOffset ea) }))

/-- The second: `MemWrite` of the pending word, with its own checks (R63, R68). -/
def finishStore (p : PendingStore) (s : State) : Res :=
  match s.accessFault p.addr 4 with
  | some f => raise f s
  | none => .next ((s.setMem (s.mem.setWord p.addr p.value)).setPendingStore none)

/-- `swc1` (R261): the bits unchanged. -/
def execSwc1 (ft base : Reg) (offset : BitVec 16) (s : State) : Res :=
  storeMem 4 (fun m a => m.setWord a (s.fw ft)) base offset s

/-- `sdc1` (R262): the pair of `ft`. -/
def execSdc1 (ft base : Reg) (offset : BitVec 16) (s : State) : Res :=
  storeMem 8 (fun m a => m.setDouble a (s.fl ft)) base offset s

end Sys2Proof.Machine
end

