-- ==== Sys2Proof/Machine/Markers.lean ====
section
/-! DEFINITION. The unimplemented markers and the two sentinels (R105, R359, R360): each raises UNIMPLEMENTED, carrying its
group and mnemonic. -/

namespace Sys2Proof.Machine

/-- A marker's execution (R359): `raise Fault(UNIMPLEMENTED, pc, group ++ ":" ++ mnemonic)`. -/
def unimplemented (group : MarkerGroup) (mnemonic : String) (s : State) : Res :=
  raise (.unimplemented s.live.pc group mnemonic) s

/-- `ssnop` (R359). -/
def execSsnop (s : State) : Res := unimplemented .generic "ssnop" s

/-- `ehb` (R359). -/
def execEhb (s : State) : Res := unimplemented .generic "ehb" s

/-- `movf` (R359). -/
def execMovf (s : State) : Res := unimplemented .generic "movf" s

/-- `movt` (R359). -/
def execMovt (s : State) : Res := unimplemented .generic "movt" s

/-- `rotr` (R359). -/
def execRotr (s : State) : Res := unimplemented .generic "rotr" s

/-- `rotrv` (R359). -/
def execRotrv (s : State) : Res := unimplemented .generic "rotrv" s

/-- `jr.hb` (R359). -/
def execJrHb (s : State) : Res := unimplemented .generic "jr.hb" s

/-- `jalr.hb` (R359). -/
def execJalrHb (s : State) : Res := unimplemented .generic "jalr.hb" s

/-- `movz` (R359). -/
def execMovz (s : State) : Res := unimplemented .generic "movz" s

/-- `movn` (R359). -/
def execMovn (s : State) : Res := unimplemented .generic "movn" s

/-- `bltzl` (R359). -/
def execBltzl (s : State) : Res := unimplemented .generic "bltzl" s

/-- `bgezl` (R359). -/
def execBgezl (s : State) : Res := unimplemented .generic "bgezl" s

/-- `bltzall` (R359). -/
def execBltzall (s : State) : Res := unimplemented .generic "bltzall" s

/-- `bgezall` (R359). -/
def execBgezall (s : State) : Res := unimplemented .generic "bgezall" s

/-- `synci` (R359). -/
def execSynci (s : State) : Res := unimplemented .generic "synci" s

/-- `Fail` (R360). -/
def execFailSentinel (s : State) : Res := unimplemented .generic "Fail" s

/-- `Pass` (R360). -/
def execPassSentinel (s : State) : Res := unimplemented .generic "Pass" s

/-- `cop0` (R359). -/
def execCop0 (s : State) : Res := unimplemented .cp0 "cop0" s

/-- `mfc0` (R359). -/
def execMfc0 (s : State) : Res := unimplemented .cp0 "mfc0" s

/-- `mtc0` (R359). -/
def execMtc0 (s : State) : Res := unimplemented .cp0 "mtc0" s

/-- `rdpgpr` (R359). -/
def execRdpgpr (s : State) : Res := unimplemented .cp0 "rdpgpr" s

/-- `wrpgpr` (R359). -/
def execWrpgpr (s : State) : Res := unimplemented .cp0 "wrpgpr" s

/-- `di` (R359). -/
def execDi (s : State) : Res := unimplemented .cp0 "di" s

/-- `ei` (R359). -/
def execEi (s : State) : Res := unimplemented .cp0 "ei" s

/-- `tlbr` (R359). -/
def execTlbr (s : State) : Res := unimplemented .cp0 "tlbr" s

/-- `tlbwi` (R359). -/
def execTlbwi (s : State) : Res := unimplemented .cp0 "tlbwi" s

/-- `tlbwr` (R359). -/
def execTlbwr (s : State) : Res := unimplemented .cp0 "tlbwr" s

/-- `tlbp` (R359). -/
def execTlbp (s : State) : Res := unimplemented .cp0 "tlbp" s

/-- `eret` (R359). -/
def execEret (s : State) : Res := unimplemented .cp0 "eret" s

/-- `deret` (R359). -/
def execDeret (s : State) : Res := unimplemented .cp0 "deret" s

/-- `wait` (R359). -/
def execWait (s : State) : Res := unimplemented .cp0 "wait" s

/-- `dmfc1` (R359). -/
def execDmfc1 (s : State) : Res := unimplemented .cp1 "dmfc1" s

/-- `mfhc1` (R359). -/
def execMfhc1 (s : State) : Res := unimplemented .cp1 "mfhc1" s

/-- `dmtc1` (R359). -/
def execDmtc1 (s : State) : Res := unimplemented .cp1 "dmtc1" s

/-- `mthc1` (R359). -/
def execMthc1 (s : State) : Res := unimplemented .cp1 "mthc1" s

/-- `bc1any2` (R359). -/
def execBc1any2 (s : State) : Res := unimplemented .cp1 "bc1any2" s

/-- `bc1any4` (R359). -/
def execBc1any4 (s : State) : Res := unimplemented .cp1 "bc1any4" s

/-- `round.l.s` (R359). -/
def execRoundLS (s : State) : Res := unimplemented .cp1 "round.l.s" s

/-- `trunc.l.s` (R359). -/
def execTruncLS (s : State) : Res := unimplemented .cp1 "trunc.l.s" s

/-- `ceil.l.s` (R359). -/
def execCeilLS (s : State) : Res := unimplemented .cp1 "ceil.l.s" s

/-- `floor.l.s` (R359). -/
def execFloorLS (s : State) : Res := unimplemented .cp1 "floor.l.s" s

/-- `round.w.s` (R359). -/
def execRoundWS (s : State) : Res := unimplemented .cp1 "round.w.s" s

/-- `trunc.w.s` (R359). -/
def execTruncWS (s : State) : Res := unimplemented .cp1 "trunc.w.s" s

/-- `ceil.w.s` (R359). -/
def execCeilWS (s : State) : Res := unimplemented .cp1 "ceil.w.s" s

/-- `floor.w.s` (R359). -/
def execFloorWS (s : State) : Res := unimplemented .cp1 "floor.w.s" s

/-- `movz.s` (R359). -/
def execMovzS (s : State) : Res := unimplemented .cp1 "movz.s" s

/-- `movn.s` (R359). -/
def execMovnS (s : State) : Res := unimplemented .cp1 "movn.s" s

/-- `recip.s` (R359). -/
def execRecipS (s : State) : Res := unimplemented .cp1 "recip.s" s

/-- `rsqrt.s` (R359). -/
def execRsqrtS (s : State) : Res := unimplemented .cp1 "rsqrt.s" s

/-- `movf.s` (R359). -/
def execMovfS (s : State) : Res := unimplemented .cp1 "movf.s" s

/-- `movt.s` (R359). -/
def execMovtS (s : State) : Res := unimplemented .cp1 "movt.s" s

/-- `cvt.ps.s` (R359). -/
def execCvtPsS (s : State) : Res := unimplemented .cp1 "cvt.ps.s" s

/-- `round.l.d` (R359). -/
def execRoundLD (s : State) : Res := unimplemented .cp1 "round.l.d" s

/-- `trunc.l.d` (R359). -/
def execTruncLD (s : State) : Res := unimplemented .cp1 "trunc.l.d" s

/-- `ceil.l.d` (R359). -/
def execCeilLD (s : State) : Res := unimplemented .cp1 "ceil.l.d" s

/-- `floor.l.d` (R359). -/
def execFloorLD (s : State) : Res := unimplemented .cp1 "floor.l.d" s

/-- `round.w.d` (R359). -/
def execRoundWD (s : State) : Res := unimplemented .cp1 "round.w.d" s

/-- `trunc.w.d` (R359). -/
def execTruncWD (s : State) : Res := unimplemented .cp1 "trunc.w.d" s

/-- `ceil.w.d` (R359). -/
def execCeilWD (s : State) : Res := unimplemented .cp1 "ceil.w.d" s

/-- `floor.w.d` (R359). -/
def execFloorWD (s : State) : Res := unimplemented .cp1 "floor.w.d" s

/-- `movz.d` (R359). -/
def execMovzD (s : State) : Res := unimplemented .cp1 "movz.d" s

/-- `movn.d` (R359). -/
def execMovnD (s : State) : Res := unimplemented .cp1 "movn.d" s

/-- `recip.d` (R359). -/
def execRecipD (s : State) : Res := unimplemented .cp1 "recip.d" s

/-- `rsqrt.d` (R359). -/
def execRsqrtD (s : State) : Res := unimplemented .cp1 "rsqrt.d" s

/-- `movf.d` (R359). -/
def execMovfD (s : State) : Res := unimplemented .cp1 "movf.d" s

/-- `movt.d` (R359). -/
def execMovtD (s : State) : Res := unimplemented .cp1 "movt.d" s

/-- `fmt.ps` (R359). -/
def execFmtPs (s : State) : Res := unimplemented .cp1 "fmt.ps" s

/-- `cop2` (R359). -/
def execCop2 (s : State) : Res := unimplemented .cp2 "cop2" s

/-- `lwxc1` (R359). -/
def execLwxc1 (s : State) : Res := unimplemented .cp1 "lwxc1" s

/-- `ldxc1` (R359). -/
def execLdxc1 (s : State) : Res := unimplemented .cp1 "ldxc1" s

/-- `luxc1` (R359). -/
def execLuxc1 (s : State) : Res := unimplemented .cp1 "luxc1" s

/-- `swxc1` (R359). -/
def execSwxc1 (s : State) : Res := unimplemented .cp1 "swxc1" s

/-- `sdxc1` (R359). -/
def execSdxc1 (s : State) : Res := unimplemented .cp1 "sdxc1" s

/-- `suxc1` (R359). -/
def execSuxc1 (s : State) : Res := unimplemented .cp1 "suxc1" s

/-- `prefx` (R359). -/
def execPrefx (s : State) : Res := unimplemented .cp1 "prefx" s

/-- `alnv.ps` (R359). -/
def execAlnvPs (s : State) : Res := unimplemented .cp1 "alnv.ps" s

/-- `madd.s` (R359). -/
def execMaddS (s : State) : Res := unimplemented .cp1 "madd.s" s

/-- `madd.d` (R359). -/
def execMaddD (s : State) : Res := unimplemented .cp1 "madd.d" s

/-- `madd.ps` (R359). -/
def execMaddPs (s : State) : Res := unimplemented .cp1 "madd.ps" s

/-- `msub.s` (R359). -/
def execMsubS (s : State) : Res := unimplemented .cp1 "msub.s" s

/-- `msub.d` (R359). -/
def execMsubD (s : State) : Res := unimplemented .cp1 "msub.d" s

/-- `msub.ps` (R359). -/
def execMsubPs (s : State) : Res := unimplemented .cp1 "msub.ps" s

/-- `nmadd.s` (R359). -/
def execNmaddS (s : State) : Res := unimplemented .cp1 "nmadd.s" s

/-- `nmadd.d` (R359). -/
def execNmaddD (s : State) : Res := unimplemented .cp1 "nmadd.d" s

/-- `nmadd.ps` (R359). -/
def execNmaddPs (s : State) : Res := unimplemented .cp1 "nmadd.ps" s

/-- `nmsub.s` (R359). -/
def execNmsubS (s : State) : Res := unimplemented .cp1 "nmsub.s" s

/-- `nmsub.d` (R359). -/
def execNmsubD (s : State) : Res := unimplemented .cp1 "nmsub.d" s

/-- `nmsub.ps` (R359). -/
def execNmsubPs (s : State) : Res := unimplemented .cp1 "nmsub.ps" s

/-- `beql` (R359). -/
def execBeql (s : State) : Res := unimplemented .generic "beql" s

/-- `bnel` (R359). -/
def execBnel (s : State) : Res := unimplemented .generic "bnel" s

/-- `blezl` (R359). -/
def execBlezl (s : State) : Res := unimplemented .generic "blezl" s

/-- `bgtzl` (R359). -/
def execBgtzl (s : State) : Res := unimplemented .generic "bgtzl" s

/-- `madd` (R359). -/
def execMadd (s : State) : Res := unimplemented .generic "madd" s

/-- `maddu` (R359). -/
def execMaddu (s : State) : Res := unimplemented .generic "maddu" s

/-- `mul` (R359). -/
def execMul (s : State) : Res := unimplemented .generic "mul" s

/-- `msub` (R359). -/
def execMsub (s : State) : Res := unimplemented .generic "msub" s

/-- `msubu` (R359). -/
def execMsubu (s : State) : Res := unimplemented .generic "msubu" s

/-- `clz` (R359). -/
def execClz (s : State) : Res := unimplemented .generic "clz" s

/-- `clo` (R359). -/
def execClo (s : State) : Res := unimplemented .generic "clo" s

/-- `sdbbp` (R359). -/
def execSdbbp (s : State) : Res := unimplemented .generic "sdbbp" s

/-- `jalx` (R359). -/
def execJalx (s : State) : Res := unimplemented .generic "jalx" s

/-- `ext` (R359). -/
def execExt (s : State) : Res := unimplemented .generic "ext" s

/-- `ins` (R359). -/
def execIns (s : State) : Res := unimplemented .generic "ins" s

/-- `wsbh` (R359). -/
def execWsbh (s : State) : Res := unimplemented .generic "wsbh" s

/-- `seb` (R359). -/
def execSeb (s : State) : Res := unimplemented .generic "seb" s

/-- `seh` (R359). -/
def execSeh (s : State) : Res := unimplemented .generic "seh" s

/-- `rdhwr` (R359). -/
def execRdhwr (s : State) : Res := unimplemented .generic "rdhwr" s

/-- `cache` (R359). -/
def execCache (s : State) : Res := unimplemented .cp0 "cache" s

/-- `pref` (R359). -/
def execPref (s : State) : Res := unimplemented .generic "pref" s

/-- `lwc2` (R359). -/
def execLwc2 (s : State) : Res := unimplemented .cp2 "lwc2" s

/-- `ldc2` (R359). -/
def execLdc2 (s : State) : Res := unimplemented .cp2 "ldc2" s

/-- `swc2` (R359). -/
def execSwc2 (s : State) : Res := unimplemented .cp2 "swc2" s

/-- `sdc2` (R359). -/
def execSdc2 (s : State) : Res := unimplemented .cp2 "sdc2" s

end Sys2Proof.Machine
end

