-- ==== Sys2Proof/Machine/MulDiv.lean ====
section
/-! DEFINITION. The multiply and divide unit and the moves of hi and lo (R156 to R163). -/

namespace Sys2Proof.Machine

/-- `lo <- l; hi <- h` (R43). -/
def State.setHiLo (s : State) (h l : Word) : State := (s.setLo l).setHi h

/-- The two halves of a 64-bit product (R156, R157). -/
def writeProduct (p : Int) (s : State) : Res :=
  let q : DWord := BitVec.ofInt 64 p
  .next (s.setHiLo (q.extractLsb' 32 32) (q.extractLsb' 0 32))

/-- `mult` (R156): signed, the product exact. -/
def execMult (rs rt : Reg) (s : State) : Res := writeProduct ((s.reg rs).toInt * (s.reg rt).toInt) s

/-- `multu` (R157): unsigned, the product exact. -/
def execMultu (rs rt : Reg) (s : State) : Res :=
  writeProduct ((s.reg rs).toNat * (s.reg rt).toNat : Nat) s

/-- (DIV_ZERO) of R158: the fault DIVIDE_CORNER, or a free word in each of `lo` and `hi` (two draws). -/
def divideByZero (mnemonic : String) (s : State) : Res :=
  match s.params.divZero with
  | .fault => raise (.divideCorner s.live.pc mnemonic) s
  | .draw => .next ((s.setHiLo (s.useDraws 1).drawWord s.drawWord).useDraws 2)

/-- (DIV_OVF) of R158: the fault DIVIDE_CORNER, or the MIPS32 wraparound. -/
def divideOverflow (s : State) : Res :=
  match s.params.divOvf with
  | .fault => raise (.divideCorner s.live.pc "div") s
  | .mips => .next (s.setHiLo 0 0x80000000#32)

/-- `div` (R158): toward zero, the remainder with the dividend's sign. -/
def execDiv (rs rt : Reg) (s : State) : Res :=
  let a := (s.reg rs).toInt
  let b := (s.reg rt).toInt
  if b = 0 then divideByZero "div" s
  else if a = -2 ^ 31 ∧ b = -1 then divideOverflow s
  else .next (s.setHiLo (BitVec.ofInt 32 (a.tmod b)) (BitVec.ofInt 32 (a.tdiv b)))

/-- `divu` (R159): floor division. -/
def execDivu (rs rt : Reg) (s : State) : Res :=
  let a := (s.reg rs).toNat
  let b := (s.reg rt).toNat
  if b = 0 then divideByZero "divu" s
  else .next (s.setHiLo (BitVec.ofNat 32 (a % b)) (BitVec.ofNat 32 (a / b)))

/-- `mfhi` (R160). -/
def execMfhi (rd : Reg) (s : State) : Res := .next (s.setReg rd s.live.hi)

/-- `mthi` (R161). -/
def execMthi (rs : Reg) (s : State) : Res := .next (s.setHi (s.reg rs))

/-- `mflo` (R162). -/
def execMflo (rd : Reg) (s : State) : Res := .next (s.setReg rd s.live.lo)

/-- `mtlo` (R163). -/
def execMtlo (rs : Reg) (s : State) : Res := .next (s.setLo (s.reg rs))

end Sys2Proof.Machine
end

