-- ==== Sys2Proof/Machine/System.lean ====
section
/-! DEFINITION. The system call and its host table, the no-op, break, sync and the traps (R341 to R357). -/

namespace Sys2Proof.Machine

/-! ## The system-call host (R341) -/

/-- `get_syscall_arg(i) = x[4 + i]` (R341). -/
def State.syscallArg (s : State) (i : Fin 4) : Word := s.reg (BitVec.ofNat 5 (4 + i.val))

/-- What the host writes back with `set_syscall_arg`: `x[2]` and `x[7]` (R341). -/
def State.setSyscallResult (s : State) (v2 v7 : Word) : State := (s.setReg 2 v2).setReg 7 v7

/-- The bytes the host reads for `write`: `MemRead(u32(a + i), 1)` for `i` below `n`, or the first fault (R62, R341). -/
def State.hostBytes (s : State) : Word → Nat → Except Fault (List Byte)
  | _, 0 => .ok []
  | a, n + 1 =>
    match s.accessFault a 1 with
    | some f => .error f
    | none =>
      match s.hostBytes (a + 1) n with
      | .ok bytes => .ok (s.mem.byteAt a :: bytes)
      | .error f => .error f

/-- `write` to a host stream (R341): `append` names the stream. A read that faults appends nothing (log 11). -/
def hostWriteTo (append : State → List Byte → State) (s : State) : Res :=
  match s.hostBytes (s.syscallArg 1) (s.syscallArg 2).toNat with
  | .ok bytes => .next ((append s bytes).setSyscallResult (s.syscallArg 2) 0)
  | .error f => raise f s

/-- `write` (R341): stream 1 or 2, else error 9. -/
def hostWrite (s : State) : Res :=
  if s.syscallArg 0 = 1 then hostWriteTo State.appendOut1 s
  else if s.syscallArg 0 = 2 then hostWriteTo State.appendOut2 s
  else .next (s.setSyscallResult 9 1)

/-- `Syscall(n)` under the default host table of SYSCALL_EFFECT (R341). -/
def hostCall (n : Word) (s : State) : Res :=
  match n.toNat with
  | 4001 => .next (s.endRun (.exited (s.syscallArg 0)))
  | 4246 => .next (s.endRun (.exited (s.syscallArg 0)))
  | 4004 => hostWrite s
  | _ => .next (s.endRun (.hostRefused n))

/-- The first fault among accesses the host makes (R62, R341). -/
def State.firstAccessFault (s : State) : List (Word × Nat) → Option Fault
  | [] => none
  | (a, n) :: rest =>
    match s.accessFault a n with
    | some f => some f
    | none => s.firstAccessFault rest

/-- `Continue(registers', memory')` (R341). -/
def State.applyHost (s : State) (e : HostEffect) : State :=
  ((((s.setLive (s.live.setAll e.regs)).setMem (s.mem.setBytes e.memory)).appendOut1 e.out1).appendOut2 e.out2).setMapped
    (e.mapped.getD s.mapped)

/-- `Syscall(n)` answered by the host (R341, R391, R392). An access that faults leaves nothing done (log 11); the answer
of a call that does not complete is left where it is, since the run has ended. DESIGN CHOICE (log 26): every access is
checked against MAPPED as it stood before the call, whatever MAPPED the answer leaves. -/
def hostAnswered (answer : HostAnswer) (rest : List HostAnswer) (n : Word) (s : State) : Res :=
  match answer with
  | .exit status => .next (s.endRun (.exited status))
  | .refuse => .next (s.endRun (.hostRefused n))
  | .proceed e =>
    match s.firstAccessFault e.accesses with
    | some f => raise f s
    | none => .next ((s.applyHost e).setHostAnswers rest)

/-- `syscall` (R341): `n <- x[2]; Syscall(n)`, by SYSCALL_EFFECT: the host's next answer, and by default the host table;
CODE is ignored. -/
def execSyscall (_code : BitVec 20) (s : State) : Res :=
  match s.hostAnswers with
  | [] => hostCall (s.reg 2) s
  | answer :: rest => hostAnswered answer rest (s.reg 2) s

/-! ## No-op, breakpoint, barrier -/

/-- `nop` (R342): nothing, for every SA that decodes to it (R107). -/
def execNop (_sa : BitVec 5) (s : State) : Res := .next s

/-- `break` (R343). -/
def execBrk (code : BitVec 20) (s : State) : Res := raise (.breakpoint s.live.pc code) s

/-- `sync` (R344), by SYNC_MODE; no STYPE differs from another. -/
def execSync (_stype : BitVec 5) (s : State) : Res :=
  match s.params.syncMode with
  | .fault => raise (.unimplemented s.live.pc .generic "sync") s
  | .noop => .next s

/-! ## Traps (R345) -/

/-- The trap mechanism: the fault TRAP when the condition holds, else nothing; under TRAP_MODE = unimplemented the fault
UNIMPLEMENTED whatever the operands. -/
def trapIf (cond : Bool) (mnemonic : String) (s : State) : Res :=
  match s.params.trapMode with
  | .conditional => if cond then raise (.trap s.live.pc mnemonic) s else .next s
  | .unimplemented => raise (.unimplemented s.live.pc .generic mnemonic) s

/-- `tge` (R346). -/
def execTge (rs rt : Reg) (_code : BitVec 10) (s : State) : Res :=
  trapIf (!((s.reg rs).slt (s.reg rt))) "tge" s

/-- `tgeu` (R347). -/
def execTgeu (rs rt : Reg) (_code : BitVec 10) (s : State) : Res :=
  trapIf (!((s.reg rs).ult (s.reg rt))) "tgeu" s

/-- `tlt` (R348). -/
def execTlt (rs rt : Reg) (_code : BitVec 10) (s : State) : Res :=
  trapIf ((s.reg rs).slt (s.reg rt)) "tlt" s

/-- `tltu` (R349). -/
def execTltu (rs rt : Reg) (_code : BitVec 10) (s : State) : Res :=
  trapIf ((s.reg rs).ult (s.reg rt)) "tltu" s

/-- `teq` (R350). -/
def execTeq (rs rt : Reg) (_code : BitVec 10) (s : State) : Res :=
  trapIf (s.reg rs == s.reg rt) "teq" s

/-- `tne` (R351). -/
def execTne (rs rt : Reg) (_code : BitVec 10) (s : State) : Res :=
  trapIf (s.reg rs != s.reg rt) "tne" s

/-- `tgei` (R352). -/
def execTgei (rs : Reg) (imm : BitVec 16) (s : State) : Res :=
  trapIf (!((s.reg rs).slt (sextImm imm))) "tgei" s

/-- `tgeiu` (R353). -/
def execTgeiu (rs : Reg) (imm : BitVec 16) (s : State) : Res :=
  trapIf (!((s.reg rs).ult (sextImm imm))) "tgeiu" s

/-- `tlti` (R354). -/
def execTlti (rs : Reg) (imm : BitVec 16) (s : State) : Res :=
  trapIf ((s.reg rs).slt (sextImm imm)) "tlti" s

/-- `tltiu` (R355). -/
def execTltiu (rs : Reg) (imm : BitVec 16) (s : State) : Res :=
  trapIf ((s.reg rs).ult (sextImm imm)) "tltiu" s

/-- `teqi` (R356). -/
def execTeqi (rs : Reg) (imm : BitVec 16) (s : State) : Res :=
  trapIf (s.reg rs == sextImm imm) "teqi" s

/-- `tnei` (R357). -/
def execTnei (rs : Reg) (imm : BitVec 16) (s : State) : Res :=
  trapIf (s.reg rs != sextImm imm) "tnei" s

end Sys2Proof.Machine
end

