-- ==== Sys2Proof/Machine/Dispatch.lean ====
section
/-! DEFINITION. The meaning of every instruction: one arm per constructor, one direct call per arm. -/

namespace Sys2Proof.Machine

/-- The execute rule of an instruction, without the wrapper of R340. -/
def exec (i : Instr) (s : State) : Host.Outcome State Fault Refusal :=
  match i with
  | .nop sa => Sys2Proof.Machine.execNop sa s
  | .sll rd rt sa => Sys2Proof.Machine.execSll rd rt sa s
  | .srl rd rt sa => Sys2Proof.Machine.execSrl rd rt sa s
  | .sra rd rt sa => Sys2Proof.Machine.execSra rd rt sa s
  | .sllv rd rt rs => Sys2Proof.Machine.execSllv rd rt rs s
  | .srlv rd rt rs => Sys2Proof.Machine.execSrlv rd rt rs s
  | .srav rd rt rs => Sys2Proof.Machine.execSrav rd rt rs s
  | .jr rs => Sys2Proof.Machine.execJr rs s
  | .jalr rd rs => Sys2Proof.Machine.execJalr rd rs s
  | .syscall code => Sys2Proof.Machine.execSyscall code s
  | .brk code => Sys2Proof.Machine.execBrk code s
  | .sync stype => Sys2Proof.Machine.execSync stype s
  | .mfhi rd => Sys2Proof.Machine.execMfhi rd s
  | .mthi rs => Sys2Proof.Machine.execMthi rs s
  | .mflo rd => Sys2Proof.Machine.execMflo rd s
  | .mtlo rs => Sys2Proof.Machine.execMtlo rs s
  | .mult rs rt => Sys2Proof.Machine.execMult rs rt s
  | .multu rs rt => Sys2Proof.Machine.execMultu rs rt s
  | .div rs rt => Sys2Proof.Machine.execDiv rs rt s
  | .divu rs rt => Sys2Proof.Machine.execDivu rs rt s
  | .add rd rs rt => Sys2Proof.Machine.execAdd rd rs rt s
  | .addu rd rs rt => Sys2Proof.Machine.execAddu rd rs rt s
  | .sub rd rs rt => Sys2Proof.Machine.execSub rd rs rt s
  | .subu rd rs rt => Sys2Proof.Machine.execSubu rd rs rt s
  | .and rd rs rt => Sys2Proof.Machine.execAnd rd rs rt s
  | .or rd rs rt => Sys2Proof.Machine.execOr rd rs rt s
  | .xor rd rs rt => Sys2Proof.Machine.execXor rd rs rt s
  | .nor rd rs rt => Sys2Proof.Machine.execNor rd rs rt s
  | .slt rd rs rt => Sys2Proof.Machine.execSlt rd rs rt s
  | .sltu rd rs rt => Sys2Proof.Machine.execSltu rd rs rt s
  | .tge rs rt code => Sys2Proof.Machine.execTge rs rt code s
  | .tgeu rs rt code => Sys2Proof.Machine.execTgeu rs rt code s
  | .tlt rs rt code => Sys2Proof.Machine.execTlt rs rt code s
  | .tltu rs rt code => Sys2Proof.Machine.execTltu rs rt code s
  | .teq rs rt code => Sys2Proof.Machine.execTeq rs rt code s
  | .tne rs rt code => Sys2Proof.Machine.execTne rs rt code s
  | .bltz rs offset => Sys2Proof.Machine.execBltz rs offset s
  | .bgez rs offset => Sys2Proof.Machine.execBgez rs offset s
  | .tgei rs imm => Sys2Proof.Machine.execTgei rs imm s
  | .tgeiu rs imm => Sys2Proof.Machine.execTgeiu rs imm s
  | .tlti rs imm => Sys2Proof.Machine.execTlti rs imm s
  | .tltiu rs imm => Sys2Proof.Machine.execTltiu rs imm s
  | .teqi rs imm => Sys2Proof.Machine.execTeqi rs imm s
  | .tnei rs imm => Sys2Proof.Machine.execTnei rs imm s
  | .bltzal rs offset => Sys2Proof.Machine.execBltzal rs offset s
  | .bal offset => Sys2Proof.Machine.execBal offset s
  | .bgezal rs offset => Sys2Proof.Machine.execBgezal rs offset s
  | .j target => Sys2Proof.Machine.execJ target s
  | .jal target => Sys2Proof.Machine.execJal target s
  | .b offset => Sys2Proof.Machine.execB offset s
  | .beq rs rt offset => Sys2Proof.Machine.execBeq rs rt offset s
  | .bne rs rt offset => Sys2Proof.Machine.execBne rs rt offset s
  | .blez rs offset => Sys2Proof.Machine.execBlez rs offset s
  | .bgtz rs offset => Sys2Proof.Machine.execBgtz rs offset s
  | .addi rt rs imm => Sys2Proof.Machine.execAddi rt rs imm s
  | .addiu rt rs imm => Sys2Proof.Machine.execAddiu rt rs imm s
  | .slti rt rs imm => Sys2Proof.Machine.execSlti rt rs imm s
  | .sltiu rt rs imm => Sys2Proof.Machine.execSltiu rt rs imm s
  | .andi rt rs imm => Sys2Proof.Machine.execAndi rt rs imm s
  | .ori rt rs imm => Sys2Proof.Machine.execOri rt rs imm s
  | .xori rt rs imm => Sys2Proof.Machine.execXori rt rs imm s
  | .lui rt imm => Sys2Proof.Machine.execLui rt imm s
  | .mfc1 rt fs => Sys2Proof.Machine.execMfc1 rt fs s
  | .cfc1 rt fs => Sys2Proof.Machine.execCfc1 rt fs s
  | .mtc1 rt fs => Sys2Proof.Machine.execMtc1 rt fs s
  | .ctc1 rt fs => Sys2Proof.Machine.execCtc1 rt fs s
  | .bc1f cc offset => Sys2Proof.Machine.execBc1f cc offset s
  | .bc1t cc offset => Sys2Proof.Machine.execBc1t cc offset s
  | .bc1fl cc offset => Sys2Proof.Machine.execBc1fl cc offset s
  | .bc1tl cc offset => Sys2Proof.Machine.execBc1tl cc offset s
  | .addS fd fs ft => Sys2Proof.Machine.execAddS fd fs ft s
  | .subS fd fs ft => Sys2Proof.Machine.execSubS fd fs ft s
  | .mulS fd fs ft => Sys2Proof.Machine.execMulS fd fs ft s
  | .divS fd fs ft => Sys2Proof.Machine.execDivS fd fs ft s
  | .sqrtS fd fs => Sys2Proof.Machine.execSqrtS fd fs s
  | .absS fd fs => Sys2Proof.Machine.execAbsS fd fs s
  | .movS fd fs => Sys2Proof.Machine.execMovS fd fs s
  | .negS fd fs => Sys2Proof.Machine.execNegS fd fs s
  | .cvtDS fd fs => Sys2Proof.Machine.execCvtDS fd fs s
  | .cvtWS fd fs => Sys2Proof.Machine.execCvtWS fd fs s
  | .cvtLS fd fs => Sys2Proof.Machine.execCvtLS fd fs s
  | .cFS cc fs ft => Sys2Proof.Machine.execCFS cc fs ft s
  | .cUnS cc fs ft => Sys2Proof.Machine.execCUnS cc fs ft s
  | .cEqS cc fs ft => Sys2Proof.Machine.execCEqS cc fs ft s
  | .cUeqS cc fs ft => Sys2Proof.Machine.execCUeqS cc fs ft s
  | .cOltS cc fs ft => Sys2Proof.Machine.execCOltS cc fs ft s
  | .cUltS cc fs ft => Sys2Proof.Machine.execCUltS cc fs ft s
  | .cOleS cc fs ft => Sys2Proof.Machine.execCOleS cc fs ft s
  | .cUleS cc fs ft => Sys2Proof.Machine.execCUleS cc fs ft s
  | .cSfS cc fs ft => Sys2Proof.Machine.execCSfS cc fs ft s
  | .cNgleS cc fs ft => Sys2Proof.Machine.execCNgleS cc fs ft s
  | .cSeqS cc fs ft => Sys2Proof.Machine.execCSeqS cc fs ft s
  | .cNglS cc fs ft => Sys2Proof.Machine.execCNglS cc fs ft s
  | .cLtS cc fs ft => Sys2Proof.Machine.execCLtS cc fs ft s
  | .cNgeS cc fs ft => Sys2Proof.Machine.execCNgeS cc fs ft s
  | .cLeS cc fs ft => Sys2Proof.Machine.execCLeS cc fs ft s
  | .cNgtS cc fs ft => Sys2Proof.Machine.execCNgtS cc fs ft s
  | .addD fd fs ft => Sys2Proof.Machine.execAddD fd fs ft s
  | .subD fd fs ft => Sys2Proof.Machine.execSubD fd fs ft s
  | .mulD fd fs ft => Sys2Proof.Machine.execMulD fd fs ft s
  | .divD fd fs ft => Sys2Proof.Machine.execDivD fd fs ft s
  | .sqrtD fd fs => Sys2Proof.Machine.execSqrtD fd fs s
  | .absD fd fs => Sys2Proof.Machine.execAbsD fd fs s
  | .movD fd fs => Sys2Proof.Machine.execMovD fd fs s
  | .negD fd fs => Sys2Proof.Machine.execNegD fd fs s
  | .cvtSD fd fs => Sys2Proof.Machine.execCvtSD fd fs s
  | .cvtWD fd fs => Sys2Proof.Machine.execCvtWD fd fs s
  | .cvtLD fd fs => Sys2Proof.Machine.execCvtLD fd fs s
  | .cFD cc fs ft => Sys2Proof.Machine.execCFD cc fs ft s
  | .cUnD cc fs ft => Sys2Proof.Machine.execCUnD cc fs ft s
  | .cEqD cc fs ft => Sys2Proof.Machine.execCEqD cc fs ft s
  | .cUeqD cc fs ft => Sys2Proof.Machine.execCUeqD cc fs ft s
  | .cOltD cc fs ft => Sys2Proof.Machine.execCOltD cc fs ft s
  | .cUltD cc fs ft => Sys2Proof.Machine.execCUltD cc fs ft s
  | .cOleD cc fs ft => Sys2Proof.Machine.execCOleD cc fs ft s
  | .cUleD cc fs ft => Sys2Proof.Machine.execCUleD cc fs ft s
  | .cSfD cc fs ft => Sys2Proof.Machine.execCSfD cc fs ft s
  | .cNgleD cc fs ft => Sys2Proof.Machine.execCNgleD cc fs ft s
  | .cSeqD cc fs ft => Sys2Proof.Machine.execCSeqD cc fs ft s
  | .cNglD cc fs ft => Sys2Proof.Machine.execCNglD cc fs ft s
  | .cLtD cc fs ft => Sys2Proof.Machine.execCLtD cc fs ft s
  | .cNgeD cc fs ft => Sys2Proof.Machine.execCNgeD cc fs ft s
  | .cLeD cc fs ft => Sys2Proof.Machine.execCLeD cc fs ft s
  | .cNgtD cc fs ft => Sys2Proof.Machine.execCNgtD cc fs ft s
  | .cvtSW fd fs => Sys2Proof.Machine.execCvtSW fd fs s
  | .cvtDW fd fs => Sys2Proof.Machine.execCvtDW fd fs s
  | .cvtSL fd fs => Sys2Proof.Machine.execCvtSL fd fs s
  | .cvtDL fd fs => Sys2Proof.Machine.execCvtDL fd fs s
  | .lb rt base offset => Sys2Proof.Machine.execLb rt base offset s
  | .lh rt base offset => Sys2Proof.Machine.execLh rt base offset s
  | .lwl rt base offset => Sys2Proof.Machine.execLwl rt base offset s
  | .lw rt base offset => Sys2Proof.Machine.execLw rt base offset s
  | .lbu rt base offset => Sys2Proof.Machine.execLbu rt base offset s
  | .lhu rt base offset => Sys2Proof.Machine.execLhu rt base offset s
  | .lwr rt base offset => Sys2Proof.Machine.execLwr rt base offset s
  | .sb rt base offset => Sys2Proof.Machine.execSb rt base offset s
  | .sh rt base offset => Sys2Proof.Machine.execSh rt base offset s
  | .swl rt base offset => Sys2Proof.Machine.execSwl rt base offset s
  | .sw rt base offset => Sys2Proof.Machine.execSw rt base offset s
  | .swr rt base offset => Sys2Proof.Machine.execSwr rt base offset s
  | .ll rt base offset => Sys2Proof.Machine.execLl rt base offset s
  | .sc rt base offset => Sys2Proof.Machine.execSc rt base offset s
  | .lwc1 ft base offset => Sys2Proof.Machine.execLwc1 ft base offset s
  | .ldc1 ft base offset => Sys2Proof.Machine.execLdc1 ft base offset s
  | .swc1 ft base offset => Sys2Proof.Machine.execSwc1 ft base offset s
  | .sdc1 ft base offset => Sys2Proof.Machine.execSdc1 ft base offset s
  | .ssnop => Sys2Proof.Machine.execSsnop s
  | .ehb => Sys2Proof.Machine.execEhb s
  | .movf => Sys2Proof.Machine.execMovf s
  | .movt => Sys2Proof.Machine.execMovt s
  | .rotr => Sys2Proof.Machine.execRotr s
  | .rotrv => Sys2Proof.Machine.execRotrv s
  | .jrHb => Sys2Proof.Machine.execJrHb s
  | .jalrHb => Sys2Proof.Machine.execJalrHb s
  | .movz => Sys2Proof.Machine.execMovz s
  | .movn => Sys2Proof.Machine.execMovn s
  | .bltzl => Sys2Proof.Machine.execBltzl s
  | .bgezl => Sys2Proof.Machine.execBgezl s
  | .bltzall => Sys2Proof.Machine.execBltzall s
  | .bgezall => Sys2Proof.Machine.execBgezall s
  | .synci => Sys2Proof.Machine.execSynci s
  | .failSentinel => Sys2Proof.Machine.execFailSentinel s
  | .passSentinel => Sys2Proof.Machine.execPassSentinel s
  | .cop0 => Sys2Proof.Machine.execCop0 s
  | .mfc0 => Sys2Proof.Machine.execMfc0 s
  | .mtc0 => Sys2Proof.Machine.execMtc0 s
  | .rdpgpr => Sys2Proof.Machine.execRdpgpr s
  | .wrpgpr => Sys2Proof.Machine.execWrpgpr s
  | .di => Sys2Proof.Machine.execDi s
  | .ei => Sys2Proof.Machine.execEi s
  | .tlbr => Sys2Proof.Machine.execTlbr s
  | .tlbwi => Sys2Proof.Machine.execTlbwi s
  | .tlbwr => Sys2Proof.Machine.execTlbwr s
  | .tlbp => Sys2Proof.Machine.execTlbp s
  | .eret => Sys2Proof.Machine.execEret s
  | .deret => Sys2Proof.Machine.execDeret s
  | .wait => Sys2Proof.Machine.execWait s
  | .dmfc1 => Sys2Proof.Machine.execDmfc1 s
  | .mfhc1 => Sys2Proof.Machine.execMfhc1 s
  | .dmtc1 => Sys2Proof.Machine.execDmtc1 s
  | .mthc1 => Sys2Proof.Machine.execMthc1 s
  | .bc1any2 => Sys2Proof.Machine.execBc1any2 s
  | .bc1any4 => Sys2Proof.Machine.execBc1any4 s
  | .roundLS => Sys2Proof.Machine.execRoundLS s
  | .truncLS => Sys2Proof.Machine.execTruncLS s
  | .ceilLS => Sys2Proof.Machine.execCeilLS s
  | .floorLS => Sys2Proof.Machine.execFloorLS s
  | .roundWS => Sys2Proof.Machine.execRoundWS s
  | .truncWS => Sys2Proof.Machine.execTruncWS s
  | .ceilWS => Sys2Proof.Machine.execCeilWS s
  | .floorWS => Sys2Proof.Machine.execFloorWS s
  | .movzS => Sys2Proof.Machine.execMovzS s
  | .movnS => Sys2Proof.Machine.execMovnS s
  | .recipS => Sys2Proof.Machine.execRecipS s
  | .rsqrtS => Sys2Proof.Machine.execRsqrtS s
  | .movfS => Sys2Proof.Machine.execMovfS s
  | .movtS => Sys2Proof.Machine.execMovtS s
  | .cvtPsS => Sys2Proof.Machine.execCvtPsS s
  | .roundLD => Sys2Proof.Machine.execRoundLD s
  | .truncLD => Sys2Proof.Machine.execTruncLD s
  | .ceilLD => Sys2Proof.Machine.execCeilLD s
  | .floorLD => Sys2Proof.Machine.execFloorLD s
  | .roundWD => Sys2Proof.Machine.execRoundWD s
  | .truncWD => Sys2Proof.Machine.execTruncWD s
  | .ceilWD => Sys2Proof.Machine.execCeilWD s
  | .floorWD => Sys2Proof.Machine.execFloorWD s
  | .movzD => Sys2Proof.Machine.execMovzD s
  | .movnD => Sys2Proof.Machine.execMovnD s
  | .recipD => Sys2Proof.Machine.execRecipD s
  | .rsqrtD => Sys2Proof.Machine.execRsqrtD s
  | .movfD => Sys2Proof.Machine.execMovfD s
  | .movtD => Sys2Proof.Machine.execMovtD s
  | .fmtPs => Sys2Proof.Machine.execFmtPs s
  | .cop2 => Sys2Proof.Machine.execCop2 s
  | .lwxc1 => Sys2Proof.Machine.execLwxc1 s
  | .ldxc1 => Sys2Proof.Machine.execLdxc1 s
  | .luxc1 => Sys2Proof.Machine.execLuxc1 s
  | .swxc1 => Sys2Proof.Machine.execSwxc1 s
  | .sdxc1 => Sys2Proof.Machine.execSdxc1 s
  | .suxc1 => Sys2Proof.Machine.execSuxc1 s
  | .prefx => Sys2Proof.Machine.execPrefx s
  | .alnvPs => Sys2Proof.Machine.execAlnvPs s
  | .maddS => Sys2Proof.Machine.execMaddS s
  | .maddD => Sys2Proof.Machine.execMaddD s
  | .maddPs => Sys2Proof.Machine.execMaddPs s
  | .msubS => Sys2Proof.Machine.execMsubS s
  | .msubD => Sys2Proof.Machine.execMsubD s
  | .msubPs => Sys2Proof.Machine.execMsubPs s
  | .nmaddS => Sys2Proof.Machine.execNmaddS s
  | .nmaddD => Sys2Proof.Machine.execNmaddD s
  | .nmaddPs => Sys2Proof.Machine.execNmaddPs s
  | .nmsubS => Sys2Proof.Machine.execNmsubS s
  | .nmsubD => Sys2Proof.Machine.execNmsubD s
  | .nmsubPs => Sys2Proof.Machine.execNmsubPs s
  | .beql => Sys2Proof.Machine.execBeql s
  | .bnel => Sys2Proof.Machine.execBnel s
  | .blezl => Sys2Proof.Machine.execBlezl s
  | .bgtzl => Sys2Proof.Machine.execBgtzl s
  | .madd => Sys2Proof.Machine.execMadd s
  | .maddu => Sys2Proof.Machine.execMaddu s
  | .mul => Sys2Proof.Machine.execMul s
  | .msub => Sys2Proof.Machine.execMsub s
  | .msubu => Sys2Proof.Machine.execMsubu s
  | .clz => Sys2Proof.Machine.execClz s
  | .clo => Sys2Proof.Machine.execClo s
  | .sdbbp => Sys2Proof.Machine.execSdbbp s
  | .jalx => Sys2Proof.Machine.execJalx s
  | .ext => Sys2Proof.Machine.execExt s
  | .ins => Sys2Proof.Machine.execIns s
  | .wsbh => Sys2Proof.Machine.execWsbh s
  | .seb => Sys2Proof.Machine.execSeb s
  | .seh => Sys2Proof.Machine.execSeh s
  | .rdhwr => Sys2Proof.Machine.execRdhwr s
  | .cache => Sys2Proof.Machine.execCache s
  | .pref => Sys2Proof.Machine.execPref s
  | .lwc2 => Sys2Proof.Machine.execLwc2 s
  | .ldc2 => Sys2Proof.Machine.execLdc2 s
  | .swc2 => Sys2Proof.Machine.execSwc2 s
  | .sdc2 => Sys2Proof.Machine.execSdc2 s

end Sys2Proof.Machine
end

