-- ==== Sys2Proof/Machine/Sequence.lean ====
section
/-! DEFINITION. The sequence of one step of a thread (R28), whole or up to its store (R68), and what each request of the
pipeline does. -/

namespace Sys2Proof.Machine

/-- The execute rule of a decoded leaf: the instruction's meaning, or for `Unknown` the fault UNKNOWN_INSTRUCTION (R358). -/
def execLeaf (inst : StaticInst) (s : State) : Res :=
  match inst.leaf with
  | .instr i => exec i s
  | .unknown => raise (.unknownInstruction s.live.pc inst.encoding) s

/-- The same up to the second data access: only `swl` and `swr` have one (R67, R68). -/
def execLeafToStore (inst : StaticInst) (s : State) : Res :=
  match inst.leaf with
  | .instr (.swl rt base offset) => beginStore mergeSwl rt base offset s
  | .instr (.swr rt base offset) => beginStore mergeSwr rt base offset s
  | _ => execLeaf inst s

/-- One step of the thread about to step (R28): decode, `x[0] <- 0`, execute, advance. A thread at `halt_pc` ends the run
before its step (R391). A step that was begun is finished by its store (R68). -/
def stepWith (execute : StaticInst → State → Res) (s : State) : Res :=
  match s.pendingStore with
  | some p => finishStep (finishStore p s)
  | none =>
    if s.haltPc = some s.live.pc then .refused (.runEnded .halted)
    else
      match s.decode with
      | .error f => raise f s
      | .ok (inst, s') => finishStep (execute inst s'.clearZero)

/-- A whole step, or the rest of one. -/
abbrev stepThread (s : State) : Res := stepWith execLeaf s

/-- A step up to its store, or the rest of one. -/
abbrev stepToStore (s : State) : Res := stepWith execLeafToStore s

/-- A `decode(pc)` of the pipeline (R8, R373): the cache holds the entry after it, and a fetch that faults halts the run
(R66). -/
def State.serveDecode (s : State) (pc : Word) : Res :=
  match s.decodeAt pc with
  | .error f => raise f s
  | .ok (_, s') => .next s'

/-- A request served, its thread the one about to step (R8, R10, R68, R384, R390). DESIGN CHOICE: a `decode` is served
between the two accesses of the thread's own `swl` or `swr` too (log 24), and `halt_pc` is tested at a request to step
alone, so a thread standing there has its mode set and decodes (log 25). -/
def State.serve (s : State) : Event → Res
  | .run _ => stepThread s
  | .runToStore _ => stepToStore s
  | .setSpeculative t b => if s.pendingStore.isSome then .refused (.midInstruction t) else .next (s.setSpeculative b)
  | .decode _ pc => s.serveDecode pc

/-- The next step of a run that has not ended: what the schedule asks for next, or with no schedule left the same thread's
step (R384, R390). -/
def State.proceed (s : State) : Res :=
  match s.schedule with
  | [] => stepThread s
  | e :: rest =>
    match s.selectThread e.thread with
    | some s' => (s'.setSchedule rest).serve e
    | none => .refused (.noSuchThread e.thread)

end Sys2Proof.Machine
end

