-- ==== Sys2Proof/Machine/Step.lean ====
section
/-! DEFINITION. One step of the machine, and a word placed where the next step fetches. -/

namespace Sys2Proof.Machine

/-- One step of the machine: nothing after the end of the run (R391), else the next step (R28, R390). -/
def step (s : State) : Host.Outcome State Fault Refusal :=
  match s.answerIfEnded with
  | some answer => answer
  | none => s.proceed

/-- The state with the instruction word `w` where `step` fetches next, so that the next step runs it (log 9). Every
instruction is 32 bits (R90). -/
def State.withFetchWord (s : State) (_nbits w : Nat) : State := s.placeWord (BitVec.ofNat 32 w)

end Sys2Proof.Machine
end

