-- ==== Sys2Proof/Machine/Static.lean ====
section
/-! DEFINITION. The decode-time outputs of an instruction that no execution reads (R8): mnemonic, flags, functional unit and
dependency lists (R125 to R128), the target (R205) and the disassembly (R130 to R133). -/

namespace Sys2Proof.Machine

/-- The mnemonic: the leaf name (R132). -/
def mnemonicOf : Instr → String
  | .nop .. => "nop"
  | .sll .. => "sll"
  | .srl .. => "srl"
  | .sra .. => "sra"
  | .sllv .. => "sllv"
  | .srlv .. => "srlv"
  | .srav .. => "srav"
  | .jr .. => "jr"
  | .jalr .. => "jalr"
  | .syscall .. => "syscall"
  | .brk .. => "break"
  | .sync .. => "sync"
  | .mfhi .. => "mfhi"
  | .mthi .. => "mthi"
  | .mflo .. => "mflo"
  | .mtlo .. => "mtlo"
  | .mult .. => "mult"
  | .multu .. => "multu"
  | .div .. => "div"
  | .divu .. => "divu"
  | .add .. => "add"
  | .addu .. => "addu"
  | .sub .. => "sub"
  | .subu .. => "subu"
  | .and .. => "and"
  | .or .. => "or"
  | .xor .. => "xor"
  | .nor .. => "nor"
  | .slt .. => "slt"
  | .sltu .. => "sltu"
  | .tge .. => "tge"
  | .tgeu .. => "tgeu"
  | .tlt .. => "tlt"
  | .tltu .. => "tltu"
  | .teq .. => "teq"
  | .tne .. => "tne"
  | .bltz .. => "bltz"
  | .bgez .. => "bgez"
  | .tgei .. => "tgei"
  | .tgeiu .. => "tgeiu"
  | .tlti .. => "tlti"
  | .tltiu .. => "tltiu"
  | .teqi .. => "teqi"
  | .tnei .. => "tnei"
  | .bltzal .. => "bltzal"
  | .bal .. => "bal"
  | .bgezal .. => "bgezal"
  | .j .. => "j"
  | .jal .. => "jal"
  | .b .. => "b"
  | .beq .. => "beq"
  | .bne .. => "bne"
  | .blez .. => "blez"
  | .bgtz .. => "bgtz"
  | .addi .. => "addi"
  | .addiu .. => "addiu"
  | .slti .. => "slti"
  | .sltiu .. => "sltiu"
  | .andi .. => "andi"
  | .ori .. => "ori"
  | .xori .. => "xori"
  | .lui .. => "lui"
  | .mfc1 .. => "mfc1"
  | .cfc1 .. => "cfc1"
  | .mtc1 .. => "mtc1"
  | .ctc1 .. => "ctc1"
  | .bc1f .. => "bc1f"
  | .bc1t .. => "bc1t"
  | .bc1fl .. => "bc1fl"
  | .bc1tl .. => "bc1tl"
  | .addS .. => "add.s"
  | .subS .. => "sub.s"
  | .mulS .. => "mul.s"
  | .divS .. => "div.s"
  | .sqrtS .. => "sqrt.s"
  | .absS .. => "abs.s"
  | .movS .. => "mov.s"
  | .negS .. => "neg.s"
  | .cvtDS .. => "cvt.d.s"
  | .cvtWS .. => "cvt.w.s"
  | .cvtLS .. => "cvt.l.s"
  | .cFS .. => "c.f.s"
  | .cUnS .. => "c.un.s"
  | .cEqS .. => "c.eq.s"
  | .cUeqS .. => "c.ueq.s"
  | .cOltS .. => "c.olt.s"
  | .cUltS .. => "c.ult.s"
  | .cOleS .. => "c.ole.s"
  | .cUleS .. => "c.ule.s"
  | .cSfS .. => "c.sf.s"
  | .cNgleS .. => "c.ngle.s"
  | .cSeqS .. => "c.seq.s"
  | .cNglS .. => "c.ngl.s"
  | .cLtS .. => "c.lt.s"
  | .cNgeS .. => "c.nge.s"
  | .cLeS .. => "c.le.s"
  | .cNgtS .. => "c.ngt.s"
  | .addD .. => "add.d"
  | .subD .. => "sub.d"
  | .mulD .. => "mul.d"
  | .divD .. => "div.d"
  | .sqrtD .. => "sqrt.d"
  | .absD .. => "abs.d"
  | .movD .. => "mov.d"
  | .negD .. => "neg.d"
  | .cvtSD .. => "cvt.s.d"
  | .cvtWD .. => "cvt.w.d"
  | .cvtLD .. => "cvt.l.d"
  | .cFD .. => "c.f.d"
  | .cUnD .. => "c.un.d"
  | .cEqD .. => "c.eq.d"
  | .cUeqD .. => "c.ueq.d"
  | .cOltD .. => "c.olt.d"
  | .cUltD .. => "c.ult.d"
  | .cOleD .. => "c.ole.d"
  | .cUleD .. => "c.ule.d"
  | .cSfD .. => "c.sf.d"
  | .cNgleD .. => "c.ngle.d"
  | .cSeqD .. => "c.seq.d"
  | .cNglD .. => "c.ngl.d"
  | .cLtD .. => "c.lt.d"
  | .cNgeD .. => "c.nge.d"
  | .cLeD .. => "c.le.d"
  | .cNgtD .. => "c.ngt.d"
  | .cvtSW .. => "cvt.s.w"
  | .cvtDW .. => "cvt.d.w"
  | .cvtSL .. => "cvt.s.l"
  | .cvtDL .. => "cvt.d.l"
  | .lb .. => "lb"
  | .lh .. => "lh"
  | .lwl .. => "lwl"
  | .lw .. => "lw"
  | .lbu .. => "lbu"
  | .lhu .. => "lhu"
  | .lwr .. => "lwr"
  | .sb .. => "sb"
  | .sh .. => "sh"
  | .swl .. => "swl"
  | .sw .. => "sw"
  | .swr .. => "swr"
  | .ll .. => "ll"
  | .sc .. => "sc"
  | .lwc1 .. => "lwc1"
  | .ldc1 .. => "ldc1"
  | .swc1 .. => "swc1"
  | .sdc1 .. => "sdc1"
  | .ssnop => "ssnop"
  | .ehb => "ehb"
  | .movf => "movf"
  | .movt => "movt"
  | .rotr => "rotr"
  | .rotrv => "rotrv"
  | .jrHb => "jr.hb"
  | .jalrHb => "jalr.hb"
  | .movz => "movz"
  | .movn => "movn"
  | .bltzl => "bltzl"
  | .bgezl => "bgezl"
  | .bltzall => "bltzall"
  | .bgezall => "bgezall"
  | .synci => "synci"
  | .failSentinel => "Fail"
  | .passSentinel => "Pass"
  | .cop0 => "cop0"
  | .mfc0 => "mfc0"
  | .mtc0 => "mtc0"
  | .rdpgpr => "rdpgpr"
  | .wrpgpr => "wrpgpr"
  | .di => "di"
  | .ei => "ei"
  | .tlbr => "tlbr"
  | .tlbwi => "tlbwi"
  | .tlbwr => "tlbwr"
  | .tlbp => "tlbp"
  | .eret => "eret"
  | .deret => "deret"
  | .wait => "wait"
  | .dmfc1 => "dmfc1"
  | .mfhc1 => "mfhc1"
  | .dmtc1 => "dmtc1"
  | .mthc1 => "mthc1"
  | .bc1any2 => "bc1any2"
  | .bc1any4 => "bc1any4"
  | .roundLS => "round.l.s"
  | .truncLS => "trunc.l.s"
  | .ceilLS => "ceil.l.s"
  | .floorLS => "floor.l.s"
  | .roundWS => "round.w.s"
  | .truncWS => "trunc.w.s"
  | .ceilWS => "ceil.w.s"
  | .floorWS => "floor.w.s"
  | .movzS => "movz.s"
  | .movnS => "movn.s"
  | .recipS => "recip.s"
  | .rsqrtS => "rsqrt.s"
  | .movfS => "movf.s"
  | .movtS => "movt.s"
  | .cvtPsS => "cvt.ps.s"
  | .roundLD => "round.l.d"
  | .truncLD => "trunc.l.d"
  | .ceilLD => "ceil.l.d"
  | .floorLD => "floor.l.d"
  | .roundWD => "round.w.d"
  | .truncWD => "trunc.w.d"
  | .ceilWD => "ceil.w.d"
  | .floorWD => "floor.w.d"
  | .movzD => "movz.d"
  | .movnD => "movn.d"
  | .recipD => "recip.d"
  | .rsqrtD => "rsqrt.d"
  | .movfD => "movf.d"
  | .movtD => "movt.d"
  | .fmtPs => "fmt.ps"
  | .cop2 => "cop2"
  | .lwxc1 => "lwxc1"
  | .ldxc1 => "ldxc1"
  | .luxc1 => "luxc1"
  | .swxc1 => "swxc1"
  | .sdxc1 => "sdxc1"
  | .suxc1 => "suxc1"
  | .prefx => "prefx"
  | .alnvPs => "alnv.ps"
  | .maddS => "madd.s"
  | .maddD => "madd.d"
  | .maddPs => "madd.ps"
  | .msubS => "msub.s"
  | .msubD => "msub.d"
  | .msubPs => "msub.ps"
  | .nmaddS => "nmadd.s"
  | .nmaddD => "nmadd.d"
  | .nmaddPs => "nmadd.ps"
  | .nmsubS => "nmsub.s"
  | .nmsubD => "nmsub.d"
  | .nmsubPs => "nmsub.ps"
  | .beql => "beql"
  | .bnel => "bnel"
  | .blezl => "blezl"
  | .bgtzl => "bgtzl"
  | .madd => "madd"
  | .maddu => "maddu"
  | .mul => "mul"
  | .msub => "msub"
  | .msubu => "msubu"
  | .clz => "clz"
  | .clo => "clo"
  | .sdbbp => "sdbbp"
  | .jalx => "jalx"
  | .ext => "ext"
  | .ins => "ins"
  | .wsbh => "wsbh"
  | .seb => "seb"
  | .seh => "seh"
  | .rdhwr => "rdhwr"
  | .cache => "cache"
  | .pref => "pref"
  | .lwc2 => "lwc2"
  | .ldc2 => "ldc2"
  | .swc2 => "swc2"
  | .sdc2 => "sdc2"

/-- The group of a marker, `none` for an implemented kind (R105). -/
def markerGroupOf : Instr → Option MarkerGroup
  | .nop .. | .sll .. | .srl .. | .sra .. | .sllv .. | .srlv .. | .srav .. | .jr .. | .jalr .. | .syscall ..
  | .brk .. | .sync .. | .mfhi .. | .mthi .. | .mflo .. | .mtlo .. | .mult .. | .multu .. | .div .. | .divu ..
  | .add .. | .addu .. | .sub .. | .subu .. | .and .. | .or .. | .xor .. | .nor .. | .slt .. | .sltu .. | .tge ..
  | .tgeu .. | .tlt .. | .tltu .. | .teq .. | .tne .. | .bltz .. | .bgez .. | .tgei .. | .tgeiu .. | .tlti ..
  | .tltiu .. | .teqi .. | .tnei .. | .bltzal .. | .bal .. | .bgezal .. | .j .. | .jal .. | .b .. | .beq ..
  | .bne .. | .blez .. | .bgtz .. | .addi .. | .addiu .. | .slti .. | .sltiu .. | .andi .. | .ori .. | .xori ..
  | .lui .. | .mfc1 .. | .cfc1 .. | .mtc1 .. | .ctc1 .. | .bc1f .. | .bc1t .. | .bc1fl .. | .bc1tl .. | .addS ..
  | .subS .. | .mulS .. | .divS .. | .sqrtS .. | .absS .. | .movS .. | .negS .. | .cvtDS .. | .cvtWS .. | .cvtLS ..
  | .cFS .. | .cUnS .. | .cEqS .. | .cUeqS .. | .cOltS .. | .cUltS .. | .cOleS .. | .cUleS .. | .cSfS ..
  | .cNgleS .. | .cSeqS .. | .cNglS .. | .cLtS .. | .cNgeS .. | .cLeS .. | .cNgtS .. | .addD .. | .subD ..
  | .mulD .. | .divD .. | .sqrtD .. | .absD .. | .movD .. | .negD .. | .cvtSD .. | .cvtWD .. | .cvtLD .. | .cFD ..
  | .cUnD .. | .cEqD .. | .cUeqD .. | .cOltD .. | .cUltD .. | .cOleD .. | .cUleD .. | .cSfD .. | .cNgleD ..
  | .cSeqD .. | .cNglD .. | .cLtD .. | .cNgeD .. | .cLeD .. | .cNgtD .. | .cvtSW .. | .cvtDW .. | .cvtSL ..
  | .cvtDL .. | .lb .. | .lh .. | .lwl .. | .lw .. | .lbu .. | .lhu .. | .lwr .. | .sb .. | .sh .. | .swl ..
  | .sw .. | .swr .. | .ll .. | .sc .. | .lwc1 .. | .ldc1 .. | .swc1 .. | .sdc1 .. => none
  | .ssnop | .ehb | .movf | .movt | .rotr | .rotrv | .jrHb | .jalrHb | .movz | .movn | .bltzl | .bgezl | .bltzall
  | .bgezall | .synci | .failSentinel | .passSentinel | .beql | .bnel | .blezl | .bgtzl | .madd | .maddu | .mul
  | .msub | .msubu | .clz | .clo | .sdbbp | .jalx | .ext | .ins | .wsbh | .seb | .seh | .rdhwr | .pref => some .generic
  | .cop0 | .mfc0 | .mtc0 | .rdpgpr | .wrpgpr | .di | .ei | .tlbr | .tlbwi | .tlbwr | .tlbp | .eret | .deret
  | .wait | .cache => some .cp0
  | .dmfc1 | .mfhc1 | .dmtc1 | .mthc1 | .bc1any2 | .bc1any4 | .roundLS | .truncLS | .ceilLS | .floorLS | .roundWS
  | .truncWS | .ceilWS | .floorWS | .movzS | .movnS | .recipS | .rsqrtS | .movfS | .movtS | .cvtPsS | .roundLD
  | .truncLD | .ceilLD | .floorLD | .roundWD | .truncWD | .ceilWD | .floorWD | .movzD | .movnD | .recipD | .rsqrtD
  | .movfD | .movtD | .fmtPs | .lwxc1 | .ldxc1 | .luxc1 | .swxc1 | .sdxc1 | .suxc1 | .prefx | .alnvPs | .maddS
  | .maddD | .maddPs | .msubS | .msubD | .msubPs | .nmaddS | .nmaddD | .nmaddPs | .nmsubS | .nmsubD | .nmsubPs =>
    some .cp1
  | .cop2 | .lwc2 | .ldc2 | .swc2 | .sdc2 => some .cp2

/-- The members of `flags` (R125). -/
inductive StaticFlag
  | int
  | fp
  | mem
  | load
  | store
  | control
  | cond
  | uncond
  | direct
  | indirect
  | call
  | return
  | nop
  | trap
  | syscall
  deriving DecidableEq, Repr

/-- The functional-unit classes (R126), read by no rule. -/
inductive FunctionalUnit
  | none
  | intAlu
  | intMult
  | intDiv
  | fpAdd
  | fpCmp
  | fpCvt
  | fpMult
  | fpDiv
  | fpSqrt
  | rdPort
  | wrPort
  deriving DecidableEq, Repr

/-- `flags` of an instruction (R127). -/
def flagsOf : Instr → List StaticFlag
  | .nop .. => [.nop]
  | .sll .. | .srl .. | .sra .. | .sllv .. | .srlv .. | .srav .. | .mfhi .. | .mthi .. | .mflo .. | .mtlo ..
  | .mult .. | .multu .. | .div .. | .divu .. | .add .. | .addu .. | .sub .. | .subu .. | .and .. | .or ..
  | .xor .. | .nor .. | .slt .. | .sltu .. | .addi .. | .addiu .. | .slti .. | .sltiu .. | .andi .. | .ori ..
  | .xori .. | .lui .. => [.int]
  | .jr .. => [.control, .uncond, .indirect, .return]
  | .jalr .. => [.control, .uncond, .indirect, .call]
  | .syscall .. => [.syscall]
  | .brk .. | .tge .. | .tgeu .. | .tlt .. | .tltu .. | .teq .. | .tne .. | .tgei .. | .tgeiu .. | .tlti ..
  | .tltiu .. | .teqi .. | .tnei .. => [.trap]
  | .sync .. | .ssnop | .ehb | .movf | .movt | .rotr | .rotrv | .jrHb | .jalrHb | .movz | .movn | .bltzl | .bgezl
  | .bltzall | .bgezall | .synci | .failSentinel | .passSentinel | .cop0 | .mfc0 | .mtc0 | .rdpgpr | .wrpgpr | .di
  | .ei | .tlbr | .tlbwi | .tlbwr | .tlbp | .eret | .deret | .wait | .dmfc1 | .mfhc1 | .dmtc1 | .mthc1 | .bc1any2
  | .bc1any4 | .roundLS | .truncLS | .ceilLS | .floorLS | .roundWS | .truncWS | .ceilWS | .floorWS | .movzS
  | .movnS | .recipS | .rsqrtS | .movfS | .movtS | .cvtPsS | .roundLD | .truncLD | .ceilLD | .floorLD | .roundWD
  | .truncWD | .ceilWD | .floorWD | .movzD | .movnD | .recipD | .rsqrtD | .movfD | .movtD | .fmtPs | .cop2 | .lwxc1
  | .ldxc1 | .luxc1 | .swxc1 | .sdxc1 | .suxc1 | .prefx | .alnvPs | .maddS | .maddD | .maddPs | .msubS | .msubD
  | .msubPs | .nmaddS | .nmaddD | .nmaddPs | .nmsubS | .nmsubD | .nmsubPs | .beql | .bnel | .blezl | .bgtzl | .madd
  | .maddu | .mul | .msub | .msubu | .clz | .clo | .sdbbp | .jalx | .ext | .ins | .wsbh | .seb | .seh | .rdhwr
  | .cache | .pref | .lwc2 | .ldc2 | .swc2 | .sdc2 => []
  | .bltz .. | .bgez .. | .beq .. | .bne .. | .blez .. | .bgtz .. | .bc1f .. | .bc1t .. | .bc1fl .. | .bc1tl .. =>
    [.control, .cond, .direct]
  | .bltzal .. | .bgezal .. => [.control, .cond, .direct, .call]
  | .bal .. | .jal .. => [.control, .uncond, .direct, .call]
  | .j .. | .b .. => [.control, .uncond, .direct]
  | .mfc1 .. | .cfc1 .. | .mtc1 .. | .ctc1 .. | .addS .. | .subS .. | .mulS .. | .divS .. | .sqrtS .. | .absS ..
  | .movS .. | .negS .. | .cvtDS .. | .cvtWS .. | .cvtLS .. | .cFS .. | .cUnS .. | .cEqS .. | .cUeqS .. | .cOltS ..
  | .cUltS .. | .cOleS .. | .cUleS .. | .cSfS .. | .cNgleS .. | .cSeqS .. | .cNglS .. | .cLtS .. | .cNgeS ..
  | .cLeS .. | .cNgtS .. | .addD .. | .subD .. | .mulD .. | .divD .. | .sqrtD .. | .absD .. | .movD .. | .negD ..
  | .cvtSD .. | .cvtWD .. | .cvtLD .. | .cFD .. | .cUnD .. | .cEqD .. | .cUeqD .. | .cOltD .. | .cUltD ..
  | .cOleD .. | .cUleD .. | .cSfD .. | .cNgleD .. | .cSeqD .. | .cNglD .. | .cLtD .. | .cNgeD .. | .cLeD ..
  | .cNgtD .. | .cvtSW .. | .cvtDW .. | .cvtSL .. | .cvtDL .. => [.fp]
  | .lb .. | .lh .. | .lwl .. | .lw .. | .lbu .. | .lhu .. | .lwr .. | .ll .. => [.int, .mem, .load]
  | .sb .. | .sh .. | .swl .. | .sw .. | .swr .. | .sc .. => [.int, .mem, .store]
  | .lwc1 .. | .ldc1 .. => [.fp, .mem, .load]
  | .swc1 .. | .sdc1 .. => [.fp, .mem, .store]

/-- `functional_unit` of an instruction (R127). -/
def unitOf : Instr → FunctionalUnit
  | .nop .. | .syscall .. | .brk .. | .sync .. | .tge .. | .tgeu .. | .tlt .. | .tltu .. | .teq .. | .tne ..
  | .tgei .. | .tgeiu .. | .tlti .. | .tltiu .. | .teqi .. | .tnei .. | .mfc1 .. | .cfc1 .. | .mtc1 .. | .ctc1 ..
  | .ssnop | .ehb | .movf | .movt | .rotr | .rotrv | .jrHb | .jalrHb | .movz | .movn | .bltzl | .bgezl | .bltzall
  | .bgezall | .synci | .failSentinel | .passSentinel | .cop0 | .mfc0 | .mtc0 | .rdpgpr | .wrpgpr | .di | .ei
  | .tlbr | .tlbwi | .tlbwr | .tlbp | .eret | .deret | .wait | .dmfc1 | .mfhc1 | .dmtc1 | .mthc1 | .bc1any2
  | .bc1any4 | .roundLS | .truncLS | .ceilLS | .floorLS | .roundWS | .truncWS | .ceilWS | .floorWS | .movzS
  | .movnS | .recipS | .rsqrtS | .movfS | .movtS | .cvtPsS | .roundLD | .truncLD | .ceilLD | .floorLD | .roundWD
  | .truncWD | .ceilWD | .floorWD | .movzD | .movnD | .recipD | .rsqrtD | .movfD | .movtD | .fmtPs | .cop2 | .lwxc1
  | .ldxc1 | .luxc1 | .swxc1 | .sdxc1 | .suxc1 | .prefx | .alnvPs | .maddS | .maddD | .maddPs | .msubS | .msubD
  | .msubPs | .nmaddS | .nmaddD | .nmaddPs | .nmsubS | .nmsubD | .nmsubPs | .beql | .bnel | .blezl | .bgtzl | .madd
  | .maddu | .mul | .msub | .msubu | .clz | .clo | .sdbbp | .jalx | .ext | .ins | .wsbh | .seb | .seh | .rdhwr
  | .cache | .pref | .lwc2 | .ldc2 | .swc2 | .sdc2 => .none
  | .sll .. | .srl .. | .sra .. | .sllv .. | .srlv .. | .srav .. | .jr .. | .jalr .. | .mfhi .. | .mthi ..
  | .mflo .. | .mtlo .. | .add .. | .addu .. | .sub .. | .subu .. | .and .. | .or .. | .xor .. | .nor .. | .slt ..
  | .sltu .. | .bltz .. | .bgez .. | .bltzal .. | .bal .. | .bgezal .. | .j .. | .jal .. | .b .. | .beq ..
  | .bne .. | .blez .. | .bgtz .. | .addi .. | .addiu .. | .slti .. | .sltiu .. | .andi .. | .ori .. | .xori ..
  | .lui .. | .bc1f .. | .bc1t .. | .bc1fl .. | .bc1tl .. => .intAlu
  | .mult .. | .multu .. => .intMult
  | .div .. | .divu .. => .intDiv
  | .addS .. | .subS .. | .absS .. | .movS .. | .negS .. | .addD .. | .subD .. | .absD .. | .movD .. | .negD .. =>
    .fpAdd
  | .mulS .. | .mulD .. => .fpMult
  | .divS .. | .divD .. => .fpDiv
  | .sqrtS .. | .sqrtD .. => .fpSqrt
  | .cvtDS .. | .cvtWS .. | .cvtLS .. | .cvtSD .. | .cvtWD .. | .cvtLD .. | .cvtSW .. | .cvtDW .. | .cvtSL ..
  | .cvtDL .. => .fpCvt
  | .cFS .. | .cUnS .. | .cEqS .. | .cUeqS .. | .cOltS .. | .cUltS .. | .cOleS .. | .cUleS .. | .cSfS ..
  | .cNgleS .. | .cSeqS .. | .cNglS .. | .cLtS .. | .cNgeS .. | .cLeS .. | .cNgtS .. | .cFD .. | .cUnD ..
  | .cEqD .. | .cUeqD .. | .cOltD .. | .cUltD .. | .cOleD .. | .cUleD .. | .cSfD .. | .cNgleD .. | .cSeqD ..
  | .cNglD .. | .cLtD .. | .cNgeD .. | .cLeD .. | .cNgtD .. => .fpCmp
  | .lb .. | .lh .. | .lwl .. | .lw .. | .lbu .. | .lhu .. | .lwr .. | .ll .. | .lwc1 .. | .ldc1 .. => .rdPort
  | .sb .. | .sh .. | .swl .. | .sw .. | .swr .. | .sc .. | .swc1 .. | .sdc1 .. => .wrPort

/-- `Integer i` of R46. -/
def intId (i : Reg) : RegId := { kind := .integer, index := i.toNat }

/-- `Float i` of R46. -/
def floatId (i : Reg) : RegId := { kind := .float, index := i.toNat }

/-- `Misc i` of R46: 0 lo, 1 hi, 2 ea, 3 fcsr. -/
def miscId (i : Nat) : RegId := { kind := .misc, index := i }

/-- `ideps` of an instruction, in the order its rule writes (R128). -/
def idepsOf : Instr → List RegId
  | .sll _ rt _ | .srl _ rt _ | .sra _ rt _ | .mtc1 rt _ | .ctc1 rt _ => [intId rt]
  | .sllv _ rt rs | .srlv _ rt rs | .srav _ rt rs | .mult rs rt | .multu rs rt | .div rs rt | .divu rs rt
  | .add _ rs rt | .addu _ rs rt | .sub _ rs rt | .subu _ rs rt | .and _ rs rt | .or _ rs rt | .xor _ rs rt
  | .nor _ rs rt | .slt _ rs rt | .sltu _ rs rt | .tge rs rt _ | .tgeu rs rt _ | .tlt rs rt _ | .tltu rs rt _
  | .teq rs rt _ | .tne rs rt _ | .beq rs rt _ | .bne rs rt _ => [intId rs, intId rt]
  | .jr rs | .jalr _ rs | .mthi rs | .mtlo rs | .bltz rs _ | .bgez rs _ | .tgei rs _ | .tgeiu rs _ | .tlti rs _
  | .tltiu rs _ | .teqi rs _ | .tnei rs _ | .bltzal rs _ | .bgezal rs _ | .blez rs _ | .bgtz rs _ | .addi _ rs _
  | .addiu _ rs _ | .slti _ rs _ | .sltiu _ rs _ | .andi _ rs _ | .ori _ rs _ | .xori _ rs _ => [intId rs]
  | .syscall .. => [intId 2, intId 4, intId 5, intId 6, intId 7]
  | .mfhi .. => [miscId 1]
  | .mflo .. => [miscId 0]
  | .mfc1 _ fs | .sqrtS _ fs | .absS _ fs | .movS _ fs | .negS _ fs | .cvtDS _ fs | .cvtWS _ fs | .cvtLS _ fs
  | .cvtSW _ fs | .cvtDW _ fs => [floatId fs]
  | .cfc1 .. | .bc1f .. | .bc1t .. | .bc1fl .. | .bc1tl .. => [miscId 3]
  | .addS _ fs ft | .subS _ fs ft | .mulS _ fs ft | .divS _ fs ft | .cFS _ fs ft | .cUnS _ fs ft | .cEqS _ fs ft
  | .cUeqS _ fs ft | .cOltS _ fs ft | .cUltS _ fs ft | .cOleS _ fs ft | .cUleS _ fs ft | .cSfS _ fs ft
  | .cNgleS _ fs ft | .cSeqS _ fs ft | .cNglS _ fs ft | .cLtS _ fs ft | .cNgeS _ fs ft | .cLeS _ fs ft
  | .cNgtS _ fs ft => [floatId fs, floatId ft]
  | .addD _ fs ft | .subD _ fs ft | .mulD _ fs ft | .divD _ fs ft | .cFD _ fs ft | .cUnD _ fs ft | .cEqD _ fs ft
  | .cUeqD _ fs ft | .cOltD _ fs ft | .cUltD _ fs ft | .cOleD _ fs ft | .cUleD _ fs ft | .cSfD _ fs ft
  | .cNgleD _ fs ft | .cSeqD _ fs ft | .cNglD _ fs ft | .cLtD _ fs ft | .cNgeD _ fs ft | .cLeD _ fs ft
  | .cNgtD _ fs ft => [floatId (pairLow fs), floatId (pairHigh fs), floatId (pairLow ft), floatId (pairHigh ft)]
  | .sqrtD _ fs | .absD _ fs | .movD _ fs | .negD _ fs | .cvtSD _ fs | .cvtWD _ fs | .cvtLD _ fs | .cvtSL _ fs
  | .cvtDL _ fs => [floatId (pairLow fs), floatId (pairHigh fs)]
  | .lb _ base _ | .lh _ base _ | .lw _ base _ | .lbu _ base _ | .lhu _ base _ | .ll _ base _ | .lwc1 _ base _
  | .ldc1 _ base _ => [intId base]
  | .lwl rt base _ | .lwr rt base _ | .sb rt base _ | .sh rt base _ | .swl rt base _ | .sw rt base _
  | .swr rt base _ | .sc rt base _ => [intId base, intId rt]
  | .swc1 ft base _ => [intId base, floatId ft]
  | .sdc1 ft base _ => [intId base, floatId (pairLow ft), floatId (pairHigh ft)]
  | .nop .. | .brk .. | .sync .. | .bal .. | .j .. | .jal .. | .b .. | .lui .. | .ssnop | .ehb | .movf | .movt
  | .rotr | .rotrv | .jrHb | .jalrHb | .movz | .movn | .bltzl | .bgezl | .bltzall | .bgezall | .synci
  | .failSentinel | .passSentinel | .cop0 | .mfc0 | .mtc0 | .rdpgpr | .wrpgpr | .di | .ei | .tlbr | .tlbwi | .tlbwr
  | .tlbp | .eret | .deret | .wait | .dmfc1 | .mfhc1 | .dmtc1 | .mthc1 | .bc1any2 | .bc1any4 | .roundLS | .truncLS
  | .ceilLS | .floorLS | .roundWS | .truncWS | .ceilWS | .floorWS | .movzS | .movnS | .recipS | .rsqrtS | .movfS
  | .movtS | .cvtPsS | .roundLD | .truncLD | .ceilLD | .floorLD | .roundWD | .truncWD | .ceilWD | .floorWD | .movzD
  | .movnD | .recipD | .rsqrtD | .movfD | .movtD | .fmtPs | .cop2 | .lwxc1 | .ldxc1 | .luxc1 | .swxc1 | .sdxc1
  | .suxc1 | .prefx | .alnvPs | .maddS | .maddD | .maddPs | .msubS | .msubD | .msubPs | .nmaddS | .nmaddD
  | .nmaddPs | .nmsubS | .nmsubD | .nmsubPs | .beql | .bnel | .blezl | .bgtzl | .madd | .maddu | .mul | .msub
  | .msubu | .clz | .clo | .sdbbp | .jalx | .ext | .ins | .wsbh | .seb | .seh | .rdhwr | .cache | .pref | .lwc2
  | .ldc2 | .swc2 | .sdc2 => []

/-- `odeps` of an instruction, in the order its rule writes (R128). -/
def odepsOf : Instr → List RegId
  | .sll rd _ _ | .srl rd _ _ | .sra rd _ _ | .sllv rd _ _ | .srlv rd _ _ | .srav rd _ _ | .jalr rd _ | .mfhi rd
  | .mflo rd | .add rd _ _ | .addu rd _ _ | .sub rd _ _ | .subu rd _ _ | .and rd _ _ | .or rd _ _ | .xor rd _ _
  | .nor rd _ _ | .slt rd _ _ | .sltu rd _ _ => [intId rd]
  | .syscall .. => [intId 2, intId 7]
  | .mthi .. => [miscId 1]
  | .mtlo .. => [miscId 0]
  | .mult .. | .multu .. | .div .. | .divu .. => [miscId 0, miscId 1]
  | .bltzal .. | .bal .. | .bgezal .. | .jal .. => [intId 31]
  | .addi rt _ _ | .addiu rt _ _ | .slti rt _ _ | .sltiu rt _ _ | .andi rt _ _ | .ori rt _ _ | .xori rt _ _
  | .lui rt _ | .mfc1 rt _ | .cfc1 rt _ => [intId rt]
  | .mtc1 _ fs => [floatId fs]
  | .ctc1 .. | .cFS .. | .cUnS .. | .cEqS .. | .cUeqS .. | .cOltS .. | .cUltS .. | .cOleS .. | .cUleS .. | .cSfS ..
  | .cNgleS .. | .cSeqS .. | .cNglS .. | .cLtS .. | .cNgeS .. | .cLeS .. | .cNgtS .. | .cFD .. | .cUnD ..
  | .cEqD .. | .cUeqD .. | .cOltD .. | .cUltD .. | .cOleD .. | .cUleD .. | .cSfD .. | .cNgleD .. | .cSeqD ..
  | .cNglD .. | .cLtD .. | .cNgeD .. | .cLeD .. | .cNgtD .. => [miscId 3]
  | .addS fd _ _ | .subS fd _ _ | .mulS fd _ _ | .divS fd _ _ | .sqrtS fd _ | .absS fd _ | .movS fd _ | .negS fd _
  | .cvtWS fd _ | .cvtSD fd _ | .cvtWD fd _ | .cvtSW fd _ | .cvtSL fd _ => [floatId fd]
  | .cvtDS fd _ | .cvtLS fd _ | .addD fd _ _ | .subD fd _ _ | .mulD fd _ _ | .divD fd _ _ | .sqrtD fd _
  | .absD fd _ | .movD fd _ | .negD fd _ | .cvtLD fd _ | .cvtDW fd _ | .cvtDL fd _ =>
    [floatId (pairLow fd), floatId (pairHigh fd)]
  | .lb rt _ _ | .lh rt _ _ | .lwl rt _ _ | .lw rt _ _ | .lbu rt _ _ | .lhu rt _ _ | .lwr rt _ _ | .ll rt _ _
  | .sc rt _ _ => [intId rt, miscId 2]
  | .sb .. | .sh .. | .swl .. | .sw .. | .swr .. | .swc1 .. | .sdc1 .. => [miscId 2]
  | .lwc1 ft _ _ => [floatId ft, miscId 2]
  | .ldc1 ft _ _ => [floatId (pairLow ft), floatId (pairHigh ft), miscId 2]
  | .nop .. | .jr .. | .brk .. | .sync .. | .tge .. | .tgeu .. | .tlt .. | .tltu .. | .teq .. | .tne .. | .bltz ..
  | .bgez .. | .tgei .. | .tgeiu .. | .tlti .. | .tltiu .. | .teqi .. | .tnei .. | .j .. | .b .. | .beq ..
  | .bne .. | .blez .. | .bgtz .. | .bc1f .. | .bc1t .. | .bc1fl .. | .bc1tl .. | .ssnop | .ehb | .movf | .movt
  | .rotr | .rotrv | .jrHb | .jalrHb | .movz | .movn | .bltzl | .bgezl | .bltzall | .bgezall | .synci
  | .failSentinel | .passSentinel | .cop0 | .mfc0 | .mtc0 | .rdpgpr | .wrpgpr | .di | .ei | .tlbr | .tlbwi | .tlbwr
  | .tlbp | .eret | .deret | .wait | .dmfc1 | .mfhc1 | .dmtc1 | .mthc1 | .bc1any2 | .bc1any4 | .roundLS | .truncLS
  | .ceilLS | .floorLS | .roundWS | .truncWS | .ceilWS | .floorWS | .movzS | .movnS | .recipS | .rsqrtS | .movfS
  | .movtS | .cvtPsS | .roundLD | .truncLD | .ceilLD | .floorLD | .roundWD | .truncWD | .ceilWD | .floorWD | .movzD
  | .movnD | .recipD | .rsqrtD | .movfD | .movtD | .fmtPs | .cop2 | .lwxc1 | .ldxc1 | .luxc1 | .swxc1 | .sdxc1
  | .suxc1 | .prefx | .alnvPs | .maddS | .maddD | .maddPs | .msubS | .msubD | .msubPs | .nmaddS | .nmaddD
  | .nmaddPs | .nmsubS | .nmsubD | .nmsubPs | .beql | .bnel | .blezl | .bgtzl | .madd | .maddu | .mul | .msub
  | .msubu | .clz | .clo | .sdbbp | .jalx | .ext | .ins | .wsbh | .seb | .seh | .rdhwr | .cache | .pref | .lwc2
  | .ldc2 | .swc2 | .sdc2 => []

/-! ## Of a decoded leaf -/

/-- The mnemonic of a leaf: `unknown` for Unknown (R132). -/
def leafMnemonic : Leaf → String
  | .instr i => mnemonicOf i
  | .unknown => "unknown"

/-- `flags` of a leaf: none for Unknown (R127). -/
def leafFlags : Leaf → List StaticFlag
  | .instr i => flagsOf i
  | .unknown => []

/-- `functional_unit` of a leaf: NONE for Unknown (R127). -/
def leafUnit : Leaf → FunctionalUnit
  | .instr i => unitOf i
  | .unknown => .none

/-- `ideps` of a leaf: empty for Unknown (R128). -/
def leafIdeps : Leaf → List RegId
  | .instr i => idepsOf i
  | .unknown => []

/-- `odeps` of a leaf: empty for Unknown (R128). -/
def leafOdeps : Leaf → List RegId
  | .instr i => odepsOf i
  | .unknown => []

/-- `is_load` (R125). -/
def leafIsLoad (l : Leaf) : Bool := (leafFlags l).contains .load
/-- `is_store` (R125). -/
def leafIsStore (l : Leaf) : Bool := (leafFlags l).contains .store
/-- `is_control` (R125). -/
def leafIsControl (l : Leaf) : Bool := (leafFlags l).contains .control
/-- `is_call` (R125). -/
def leafIsCall (l : Leaf) : Bool := (leafFlags l).contains .call
/-- `is_return` (R125). -/
def leafIsReturn (l : Leaf) : Bool := (leafFlags l).contains .return
/-- `is_conditional` (R125). -/
def leafIsConditional (l : Leaf) : Bool := (leafFlags l).contains .cond
/-- `is_nop` (R125). -/
def leafIsNop (l : Leaf) : Bool := (leafFlags l).contains .nop

/-! ## The target (R205) -/

/-- Where an instruction's target comes from. -/
inductive TargetForm
  | branch (offset : BitVec 16)
  | jump (target : BitVec 26)
  | register (rs : Reg)
  | none
  deriving DecidableEq, Repr

/-- The target form of an instruction: every kind with CONTROL in its flags has one (R129, R205). -/
def targetFormOf : Instr → TargetForm
  | .bltz _ offset | .bgez _ offset | .bltzal _ offset | .bal offset | .bgezal _ offset | .b offset
  | .beq _ _ offset | .bne _ _ offset | .blez _ offset | .bgtz _ offset | .bc1f _ offset | .bc1t _ offset
  | .bc1fl _ offset | .bc1tl _ offset => .branch offset
  | .j target | .jal target => .jump target
  | .jr rs | .jalr _ rs => .register rs
  | .nop .. | .sll .. | .srl .. | .sra .. | .sllv .. | .srlv .. | .srav .. | .syscall .. | .brk .. | .sync ..
  | .mfhi .. | .mthi .. | .mflo .. | .mtlo .. | .mult .. | .multu .. | .div .. | .divu .. | .add .. | .addu ..
  | .sub .. | .subu .. | .and .. | .or .. | .xor .. | .nor .. | .slt .. | .sltu .. | .tge .. | .tgeu .. | .tlt ..
  | .tltu .. | .teq .. | .tne .. | .tgei .. | .tgeiu .. | .tlti .. | .tltiu .. | .teqi .. | .tnei .. | .addi ..
  | .addiu .. | .slti .. | .sltiu .. | .andi .. | .ori .. | .xori .. | .lui .. | .mfc1 .. | .cfc1 .. | .mtc1 ..
  | .ctc1 .. | .addS .. | .subS .. | .mulS .. | .divS .. | .sqrtS .. | .absS .. | .movS .. | .negS .. | .cvtDS ..
  | .cvtWS .. | .cvtLS .. | .cFS .. | .cUnS .. | .cEqS .. | .cUeqS .. | .cOltS .. | .cUltS .. | .cOleS ..
  | .cUleS .. | .cSfS .. | .cNgleS .. | .cSeqS .. | .cNglS .. | .cLtS .. | .cNgeS .. | .cLeS .. | .cNgtS ..
  | .addD .. | .subD .. | .mulD .. | .divD .. | .sqrtD .. | .absD .. | .movD .. | .negD .. | .cvtSD .. | .cvtWD ..
  | .cvtLD .. | .cFD .. | .cUnD .. | .cEqD .. | .cUeqD .. | .cOltD .. | .cUltD .. | .cOleD .. | .cUleD ..
  | .cSfD .. | .cNgleD .. | .cSeqD .. | .cNglD .. | .cLtD .. | .cNgeD .. | .cLeD .. | .cNgtD .. | .cvtSW ..
  | .cvtDW .. | .cvtSL .. | .cvtDL .. | .lb .. | .lh .. | .lwl .. | .lw .. | .lbu .. | .lhu .. | .lwr .. | .sb ..
  | .sh .. | .swl .. | .sw .. | .swr .. | .ll .. | .sc .. | .lwc1 .. | .ldc1 .. | .swc1 .. | .sdc1 .. | .ssnop
  | .ehb | .movf | .movt | .rotr | .rotrv | .jrHb | .jalrHb | .movz | .movn | .bltzl | .bgezl | .bltzall | .bgezall
  | .synci | .failSentinel | .passSentinel | .cop0 | .mfc0 | .mtc0 | .rdpgpr | .wrpgpr | .di | .ei | .tlbr | .tlbwi
  | .tlbwr | .tlbp | .eret | .deret | .wait | .dmfc1 | .mfhc1 | .dmtc1 | .mthc1 | .bc1any2 | .bc1any4 | .roundLS
  | .truncLS | .ceilLS | .floorLS | .roundWS | .truncWS | .ceilWS | .floorWS | .movzS | .movnS | .recipS | .rsqrtS
  | .movfS | .movtS | .cvtPsS | .roundLD | .truncLD | .ceilLD | .floorLD | .roundWD | .truncWD | .ceilWD | .floorWD
  | .movzD | .movnD | .recipD | .rsqrtD | .movfD | .movtD | .fmtPs | .cop2 | .lwxc1 | .ldxc1 | .luxc1 | .swxc1
  | .sdxc1 | .suxc1 | .prefx | .alnvPs | .maddS | .maddD | .maddPs | .msubS | .msubD | .msubPs | .nmaddS | .nmaddD
  | .nmaddPs | .nmsubS | .nmsubD | .nmsubPs | .beql | .bnel | .blezl | .bgtzl | .madd | .maddu | .mul | .msub
  | .msubu | .clz | .clo | .sdbbp | .jalx | .ext | .ins | .wsbh | .seb | .seh | .rdhwr | .cache | .pref | .lwc2
  | .ldc2 | .swc2 | .sdc2 => .none

/-- `target_pc(thread)` (R205): from the thread's registers, changing none; `none` for a non-control kind (R129). For `jr`
and `jalr` it is cell `x[rs]` as it stands, cell 0 not forced to 0. -/
def leafTargetPc (s : State) : Leaf → Option Word
  | .unknown => none
  | .instr i =>
    match targetFormOf i with
    | .branch offset => some (s.branchTarget offset)
    | .jump target => some (s.jumpTarget target)
    | .register rs => some (s.reg rs)
    | .none => none

/-- A caller that needs a value from `target_pc` (R129, D40): INVARIANT where there is none. -/
def leafNeededTargetPc (s : State) (l : Leaf) : Except Fault Word :=
  match leafTargetPc s l with
  | some a => .ok a
  | none => .error (.invariant s.live.pc "target_pc of a non-control kind")

/-! ## Disassembly (R130 to R133) -/

/-- The o32 register names (R22). -/
def gprNames : List String :=
  ["zero", "at", "v0", "v1", "a0", "a1", "a2", "a3"] ++ ["t0", "t1", "t2", "t3", "t4", "t5", "t6", "t7"] ++
  ["s0", "s1", "s2", "s3", "s4", "s5", "s6", "s7"] ++ ["t8", "t9", "k0", "k1", "gp", "sp", "s8", "ra"]

/-- A general register: `$` and its name (R132). -/
def renderGpr (i : Reg) : String := "$" ++ gprNames.getD i.toNat ""

/-- A number in decimal. -/
def renderNat (n : Nat) : String := String.ofList (Nat.toDigits 10 n)

/-- A signed number in decimal. -/
def renderInt (i : Int) : String := if i < 0 then "-" ++ renderNat i.natAbs else renderNat i.natAbs

/-- A number in lower-case hexadecimal, `0x` in front. -/
def renderHex (n : Nat) : String := "0x" ++ String.ofList (Nat.toDigits 16 n)

/-- A word in eight lower-case hexadecimal digits, `0x` in front (R130). -/
def renderHex8 (w : Word) : String :=
  let digits := Nat.toDigits 16 w.toNat
  "0x" ++ String.ofList (List.replicate (8 - digits.length) '0' ++ digits)

/-- A float register: `$f` and its number (R132). -/
def renderFloat (i : Reg) : String := "$f" ++ renderNat i.toNat

/-- A condition bit: `$fcc` and its number (R132). -/
def renderFcc (cc : BitVec 3) : String := "$fcc" ++ renderNat cc.toNat

/-- Operands joined by `", "` (R131). -/
def renderList : List String → String
  | [] => ""
  | [x] => x
  | x :: y :: rest => x ++ ", " ++ renderList (y :: rest)

/-- `offset($base)` (R131). -/
def renderMem (base : Reg) (offset : BitVec 16) : String :=
  renderInt offset.toInt ++ "(" ++ renderGpr base ++ ")"

/-- The displayed branch target, `npc` taken as `pc + 4` (R131). -/
def renderBranch (pc : Word) (offset : BitVec 16) : String := renderHex8 (pc + 4 + branchDisp offset)

/-- The displayed jump target, `npc` taken as `pc + 4` (R131). -/
def renderJump (pc : Word) (target : BitVec 26) : String := renderHex8 (jumpTargetFrom (pc + 4) target)

/-- The operands of an instruction at a pc, by kind (R131). -/
def operandsOf (pc : Word) : Instr → List String
  | .sll rd rt sa | .srl rd rt sa | .sra rd rt sa => [renderGpr rd, renderGpr rt, renderNat sa.toNat]
  | .sllv rd rt rs | .srlv rd rt rs | .srav rd rt rs => [renderGpr rd, renderGpr rt, renderGpr rs]
  | .jr rs | .mthi rs | .mtlo rs => [renderGpr rs]
  | .jalr rd rs => [renderGpr rd, renderGpr rs]
  | .mfhi rd | .mflo rd => [renderGpr rd]
  | .mult rs rt | .multu rs rt | .div rs rt | .divu rs rt | .tge rs rt _ | .tgeu rs rt _ | .tlt rs rt _
  | .tltu rs rt _ | .teq rs rt _ | .tne rs rt _ => [renderGpr rs, renderGpr rt]
  | .add rd rs rt | .addu rd rs rt | .sub rd rs rt | .subu rd rs rt | .and rd rs rt | .or rd rs rt | .xor rd rs rt
  | .nor rd rs rt | .slt rd rs rt | .sltu rd rs rt => [renderGpr rd, renderGpr rs, renderGpr rt]
  | .bltz rs offset | .bgez rs offset | .bltzal rs offset | .bgezal rs offset | .blez rs offset | .bgtz rs offset =>
    [renderGpr rs, renderBranch pc offset]
  | .tgei rs imm | .tgeiu rs imm | .tlti rs imm | .tltiu rs imm | .teqi rs imm | .tnei rs imm =>
    [renderGpr rs, renderInt imm.toInt]
  | .bal offset | .b offset => [renderBranch pc offset]
  | .j target | .jal target => [renderJump pc target]
  | .beq rs rt offset | .bne rs rt offset => [renderGpr rs, renderGpr rt, renderBranch pc offset]
  | .addi rt rs imm | .addiu rt rs imm | .slti rt rs imm => [renderGpr rt, renderGpr rs, renderInt imm.toInt]
  | .sltiu rt rs imm | .andi rt rs imm | .ori rt rs imm | .xori rt rs imm =>
    [renderGpr rt, renderGpr rs, renderHex imm.toNat]
  | .lui rt imm => [renderGpr rt, renderHex imm.toNat]
  | .mfc1 rt fs | .mtc1 rt fs => [renderGpr rt, renderFloat fs]
  | .cfc1 rt fs | .ctc1 rt fs => [renderGpr rt, "$" ++ renderNat fs.toNat]
  | .bc1f cc offset | .bc1t cc offset | .bc1fl cc offset | .bc1tl cc offset => [renderFcc cc, renderBranch pc offset]
  | .addS fd fs ft | .subS fd fs ft | .mulS fd fs ft | .divS fd fs ft | .addD fd fs ft | .subD fd fs ft
  | .mulD fd fs ft | .divD fd fs ft => [renderFloat fd, renderFloat fs, renderFloat ft]
  | .sqrtS fd fs | .absS fd fs | .movS fd fs | .negS fd fs | .cvtDS fd fs | .cvtWS fd fs | .cvtLS fd fs
  | .sqrtD fd fs | .absD fd fs | .movD fd fs | .negD fd fs | .cvtSD fd fs | .cvtWD fd fs | .cvtLD fd fs
  | .cvtSW fd fs | .cvtDW fd fs | .cvtSL fd fs | .cvtDL fd fs => [renderFloat fd, renderFloat fs]
  | .cFS cc fs ft | .cUnS cc fs ft | .cEqS cc fs ft | .cUeqS cc fs ft | .cOltS cc fs ft | .cUltS cc fs ft
  | .cOleS cc fs ft | .cUleS cc fs ft | .cSfS cc fs ft | .cNgleS cc fs ft | .cSeqS cc fs ft | .cNglS cc fs ft
  | .cLtS cc fs ft | .cNgeS cc fs ft | .cLeS cc fs ft | .cNgtS cc fs ft | .cFD cc fs ft | .cUnD cc fs ft
  | .cEqD cc fs ft | .cUeqD cc fs ft | .cOltD cc fs ft | .cUltD cc fs ft | .cOleD cc fs ft | .cUleD cc fs ft
  | .cSfD cc fs ft | .cNgleD cc fs ft | .cSeqD cc fs ft | .cNglD cc fs ft | .cLtD cc fs ft | .cNgeD cc fs ft
  | .cLeD cc fs ft | .cNgtD cc fs ft => [renderFcc cc, renderFloat fs, renderFloat ft]
  | .lb rt base offset | .lh rt base offset | .lwl rt base offset | .lw rt base offset | .lbu rt base offset
  | .lhu rt base offset | .lwr rt base offset | .sb rt base offset | .sh rt base offset | .swl rt base offset
  | .sw rt base offset | .swr rt base offset | .ll rt base offset | .sc rt base offset =>
    [renderGpr rt, renderMem base offset]
  | .lwc1 ft base offset | .ldc1 ft base offset | .swc1 ft base offset | .sdc1 ft base offset =>
    [renderFloat ft, renderMem base offset]
  | .nop .. | .syscall .. | .brk .. | .sync .. | .ssnop | .ehb | .movf | .movt | .rotr | .rotrv | .jrHb | .jalrHb
  | .movz | .movn | .bltzl | .bgezl | .bltzall | .bgezall | .synci | .failSentinel | .passSentinel | .cop0 | .mfc0
  | .mtc0 | .rdpgpr | .wrpgpr | .di | .ei | .tlbr | .tlbwi | .tlbwr | .tlbp | .eret | .deret | .wait | .dmfc1
  | .mfhc1 | .dmtc1 | .mthc1 | .bc1any2 | .bc1any4 | .roundLS | .truncLS | .ceilLS | .floorLS | .roundWS | .truncWS
  | .ceilWS | .floorWS | .movzS | .movnS | .recipS | .rsqrtS | .movfS | .movtS | .cvtPsS | .roundLD | .truncLD
  | .ceilLD | .floorLD | .roundWD | .truncWD | .ceilWD | .floorWD | .movzD | .movnD | .recipD | .rsqrtD | .movfD
  | .movtD | .fmtPs | .cop2 | .lwxc1 | .ldxc1 | .luxc1 | .swxc1 | .sdxc1 | .suxc1 | .prefx | .alnvPs | .maddS
  | .maddD | .maddPs | .msubS | .msubD | .msubPs | .nmaddS | .nmaddD | .nmaddPs | .nmsubS | .nmsubD | .nmsubPs
  | .beql | .bnel | .blezl | .bgtzl | .madd | .maddu | .mul | .msub | .msubu | .clz | .clo | .sdbbp | .jalx | .ext
  | .ins | .wsbh | .seb | .seh | .rdhwr | .cache | .pref | .lwc2 | .ldc2 | .swc2 | .sdc2 => []

/-- The operands of a leaf: none for Unknown (R131). -/
def leafOperands (pc : Word) : Leaf → List String
  | .instr i => operandsOf pc i
  | .unknown => []

/-- `disassemble()` of a dynamic instruction (R130): the pc, the word, the mnemonic and the operands. -/
def disassemble (pc : Word) (inst : StaticInst) : String :=
  renderHex8 pc ++ " : " ++ renderHex8 inst.encoding ++ " " ++ leafMnemonic inst.leaf ++ " " ++
    renderList (leafOperands pc inst.leaf)

end Sys2Proof.Machine
end

