-- ==== Sys2Proof/Machine/Fields.lean ====
section
/-! DEFINITION. The bit-field abstraction: the extractor (R91), the catalog of named fields (R92), the shape classifier and
the field predicates of a machine word (R97). -/

namespace Sys2Proof.Machine

/-- A named bit range (R91). -/
structure BitField where
  name : String
  hi : Nat
  lo : Nat
  deriving DecidableEq, Repr

/-- `(word >> lo) & ((1 << (hi-lo+1)) - 1)` (R17, R91). -/
def extractField (w : Word) (f : BitField) : Nat := (w.toNat >>> f.lo) &&& ((1 <<< (f.hi - f.lo + 1)) - 1)

/-- OPCODE, bits 31:26 (R92). -/
def fOpcode : BitField := ⟨"OPCODE", 31, 26⟩
/-- OPCODE_HI, bits 31:29 (R92). -/
def fOpcodeHi : BitField := ⟨"OPCODE_HI", 31, 29⟩
/-- OPCODE_LO, bits 28:26 (R92). -/
def fOpcodeLo : BitField := ⟨"OPCODE_LO", 28, 26⟩
/-- RS, bits 25:21 (R92). -/
def fRs : BitField := ⟨"RS", 25, 21⟩
/-- FMT, bits 25:21 (R92). -/
def fFmt : BitField := ⟨"FMT", 25, 21⟩
/-- BASE, bits 25:21 (R92). -/
def fBase : BitField := ⟨"BASE", 25, 21⟩
/-- RS_MSB, bits 25:25 (R92). -/
def fRsMsb : BitField := ⟨"RS_MSB", 25, 25⟩
/-- RS_HI, bits 25:24 (R92). -/
def fRsHi : BitField := ⟨"RS_HI", 25, 24⟩
/-- RS_LO, bits 23:21 (R92). -/
def fRsLo : BitField := ⟨"RS_LO", 23, 21⟩
/-- RS_SRL, bits 25:22 (R92). -/
def fRsSrl : BitField := ⟨"RS_SRL", 25, 22⟩
/-- SRL, bits 21:21 (R92). -/
def fSrl : BitField := ⟨"SRL", 21, 21⟩
/-- RT, bits 20:16 (R92). -/
def fRt : BitField := ⟨"RT", 20, 16⟩
/-- REGIMM, bits 20:16 (R92). -/
def fRegimm : BitField := ⟨"REGIMM", 20, 16⟩
/-- FT, bits 20:16 (R92). -/
def fFt : BitField := ⟨"FT", 20, 16⟩
/-- REGIMM_HI, bits 20:19 (R92). -/
def fRegimmHi : BitField := ⟨"REGIMM_HI", 20, 19⟩
/-- REGIMM_LO, bits 18:16 (R92). -/
def fRegimmLo : BitField := ⟨"REGIMM_LO", 18, 16⟩
/-- RT_HI, bits 20:19 (R92). -/
def fRtHi : BitField := ⟨"RT_HI", 20, 19⟩
/-- RT_LO, bits 18:16 (R92). -/
def fRtLo : BitField := ⟨"RT_LO", 18, 16⟩
/-- BRANCH_CC, bits 20:18 (R92). -/
def fBranchCc : BitField := ⟨"BRANCH_CC", 20, 18⟩
/-- ND, bits 17:17 (R92). -/
def fNd : BitField := ⟨"ND", 17, 17⟩
/-- TF, bits 16:16 (R92). -/
def fTf : BitField := ⟨"TF", 16, 16⟩
/-- MOVCI, bits 16:16 (R92). -/
def fMovci : BitField := ⟨"MOVCI", 16, 16⟩
/-- RD, bits 15:11 (R92). -/
def fRd : BitField := ⟨"RD", 15, 11⟩
/-- FS, bits 15:11 (R92). -/
def fFs : BitField := ⟨"FS", 15, 11⟩
/-- RS_RT, bits 25:16 (R92). -/
def fRsRt : BitField := ⟨"RS_RT", 25, 16⟩
/-- RT_RD, bits 20:11 (R92). -/
def fRtRd : BitField := ⟨"RT_RD", 20, 11⟩
/-- SA, bits 10:6 (R92). -/
def fSa : BitField := ⟨"SA", 10, 6⟩
/-- FD, bits 10:6 (R92). -/
def fFd : BitField := ⟨"FD", 10, 6⟩
/-- HINT, bits 10:6 (R92). -/
def fHint : BitField := ⟨"HINT", 10, 6⟩
/-- STYPE, bits 10:6 (R92). -/
def fStype : BitField := ⟨"STYPE", 10, 6⟩
/-- HB, bits 10:10 (R92). -/
def fHb : BitField := ⟨"HB", 10, 10⟩
/-- CC, bits 10:8 (R92). -/
def fCc : BitField := ⟨"CC", 10, 8⟩
/-- CMPZ, bits 7:6 (R92). -/
def fCmpz : BitField := ⟨"CMPZ", 7, 6⟩
/-- FUNC, bits 5:0 (R92). -/
def fFunc : BitField := ⟨"FUNC", 5, 0⟩
/-- FUNC_HI, bits 5:3 (R92). -/
def fFuncHi : BitField := ⟨"FUNC_HI", 5, 3⟩
/-- FUNC_LO, bits 2:0 (R92). -/
def fFuncLo : BitField := ⟨"FUNC_LO", 2, 0⟩
/-- FC, bits 5:4 (R92). -/
def fFc : BitField := ⟨"FC", 5, 4⟩
/-- SC, bits 5:5 (R92). -/
def fSc : BitField := ⟨"SC", 5, 5⟩
/-- COND, bits 3:0 (R92). -/
def fCond : BitField := ⟨"COND", 3, 0⟩
/-- SEL, bits 2:0 (R92). -/
def fSel : BitField := ⟨"SEL", 2, 0⟩
/-- SRLV, bits 6:6 (R92). -/
def fSrlv : BitField := ⟨"SRLV", 6, 6⟩
/-- INTIMM, bits 15:0 (R92). -/
def fIntimm : BitField := ⟨"INTIMM", 15, 0⟩
/-- OFFSET, bits 15:0 (R92). -/
def fOffset : BitField := ⟨"OFFSET", 15, 0⟩
/-- RS_RT_INTIMM, bits 25:0 (R92). -/
def fRsRtIntimm : BitField := ⟨"RS_RT_INTIMM", 25, 0⟩
/-- JMPTARG, bits 25:0 (R92). -/
def fJmptarg : BitField := ⟨"JMPTARG", 25, 0⟩
/-- SYSCALLCODE, bits 25:6 (R92). -/
def fSyscallcode : BitField := ⟨"SYSCALLCODE", 25, 6⟩
/-- BREAKCODE, bits 25:6 (R92). -/
def fBreakcode : BitField := ⟨"BREAKCODE", 25, 6⟩
/-- TRAPCODE, bits 15:6 (R92). -/
def fTrapcode : BitField := ⟨"TRAPCODE", 15, 6⟩
/-- LOW11, bits 10:0 (R92). -/
def fLow11 : BitField := ⟨"LOW11", 10, 0⟩

/-- The catalog (R92), aliases included. -/
def fieldCatalog : List BitField :=
  [fOpcode, fOpcodeHi, fOpcodeLo, fRs, fFmt, fBase, fRsMsb, fRsHi, fRsLo, fRsSrl] ++
  [fSrl, fRt, fRegimm, fFt, fRegimmHi, fRegimmLo, fRtHi, fRtLo, fBranchCc, fNd] ++
  [fTf, fMovci, fRd, fFs, fRsRt, fRtRd, fSa, fFd, fHint, fStype] ++
  [fHb, fCc, fCmpz, fFunc, fFuncHi, fFuncLo, fFc, fSc, fCond, fSel] ++
  [fSrlv, fIntimm, fOffset, fRsRtIntimm, fJmptarg, fSyscallcode, fBreakcode, fTrapcode, fLow11]

/-- The shapes of R97. -/
inductive Shape
  | r
  | i
  | j
  | f
  deriving DecidableEq, Repr

/-- `shape(w)`, by OPCODE (R93 to R97). -/
def shapeOf (w : Word) : Shape :=
  match (Field.opcode w).toNat with
  | 2 => .j
  | 3 => .j
  | 0x1D => .j
  | 0x11 => .f
  | 0x13 => .f
  | 0 => .r
  | 0x10 => .r
  | 0x12 => .r
  | 0x1C => .r
  | 0x1F => .r
  | _ => .i

/-- `is_shift(w)` (R97). -/
def isShift (w : Word) : Bool :=
  extractField w fOpcode == 0 && extractField w fFuncHi == 0 && extractField w fFuncLo != 1 &&
    extractField w fFuncLo != 5

/-- `is_compare(w)` (R97). -/
def isCompare (w : Word) : Bool :=
  extractField w fOpcode == 0x11 && (extractField w fFmt == 16 || extractField w fFmt == 17) &&
    (extractField w fFuncHi == 6 || extractField w fFuncHi == 7)

/-- `is_syscall(w)` (R97). -/
def isSyscall (w : Word) : Bool := extractField w fOpcode == 0 && extractField w fFunc == 12

/-- `is_float_branch(w)` (R97). -/
def isFloatBranch (w : Word) : Bool := extractField w fOpcode == 0x11 && extractField w fRs == 8

end Sys2Proof.Machine
end

