-- ==== Sys2Proof/Machine/Launch.lean ====
section
/-! DEFINITION. The launch (R400 to R402): what the loader gives, applied to the machine right after reset. -/

namespace Sys2Proof.Machine

/-- One thread of the launch: its name, core, entry and registers (R384, R401, R402). -/
structure LaunchThread where
  tid : Nat
  core : Nat
  entry : Word
  regs : List (RegName × Word)
  deriving DecidableEq, Repr

/-- LAUNCH, THREADS and SYSCALL_EFFECT (R16, R341, R402). The first thread steps first unless the schedule says otherwise. -/
structure Launch where
  mapped : List Region
  image : List Host.Cell
  first : LaunchThread
  rest : List LaunchThread
  haltPc : Option Word
  schedule : List Event
  hostAnswers : List HostAnswer
  params : Config.Params
  deriving DecidableEq, Repr

/-- A thread's registers at its launch: the reset values at its entry (R47, R401), then LAUNCH.regs in order (R402). -/
def LaunchThread.registers (t : LaunchThread) : Regs := (Regs.atEntry t.entry).setAll t.regs

/-- A thread at its launch. -/
def LaunchThread.thread (t : LaunchThread) : Thread :=
  { tid := t.tid, core := t.core, live := t.registers, isSpeculative := false, shadow := Regs.zero,
    pendingStore := none }

/-- The memory image: the bytes given, every other byte 0 (R402 (1)). -/
def launchMemory (image : List Host.Cell) : Memory :=
  image.foldl (fun m c => m.write (c.1 % 2 ^ 32) c.2) []

/-- The state a run starts from (R390, R402). -/
def State.launch (l : Launch) : State :=
  { State.reset with
    tid := l.first.tid
    core := l.first.core
    live := l.first.registers
    others := l.rest.map LaunchThread.thread
    mem := launchMemory l.image
    mapped := l.mapped
    params := l.params
    haltPc := l.haltPc
    schedule := l.schedule
    hostAnswers := l.hostAnswers }

end Sys2Proof.Machine
end

