-- ==== Sys2Proof/Machine/Run.lean ====
section
/-! DEFINITION. What a fault record renders as (R371, R372): kind, code, pc and info; and what a run outputs (R390 to
R393). -/

namespace Sys2Proof.Machine

/-- The name of a marker group in fault info (R359). -/
def groupName : MarkerGroup → String
  | .generic => "generic"
  | .cp0 => "CP0"
  | .cp1 => "CP1"
  | .cp2 => "CP2"

/-- The info of a fault record (R371). -/
inductive FaultInfo
  | addr (a : Word)
  | word (w : Word)
  | code (c : BitVec 20)
  | text (t : String)
  deriving DecidableEq, Repr

/-- The code of a fault's kind (R371). -/
def Fault.code : Fault → Nat
  | .fetchUnmapped .. => 1
  | .fetchMisaligned .. => 2
  | .unknownInstruction .. => 3
  | .unimplemented .. => 4
  | .dataUnmapped .. => 5
  | .dataMisaligned .. => 6
  | .trap .. => 7
  | .breakpoint .. => 8
  | .divideCorner .. => 9
  | .unpredictableOperands .. => 10
  | .invariant .. => 11
  | .cp1ControlUngated .. => 12

/-- The kind's name (R371). -/
def Fault.kind : Fault → String
  | .fetchUnmapped .. => "FETCH_UNMAPPED"
  | .fetchMisaligned .. => "FETCH_MISALIGNED"
  | .unknownInstruction .. => "UNKNOWN_INSTRUCTION"
  | .unimplemented .. => "UNIMPLEMENTED"
  | .dataUnmapped .. => "DATA_UNMAPPED"
  | .dataMisaligned .. => "DATA_MISALIGNED"
  | .trap .. => "TRAP"
  | .breakpoint .. => "BREAKPOINT"
  | .divideCorner .. => "DIVIDE_CORNER"
  | .unpredictableOperands .. => "UNPREDICTABLE_OPERANDS"
  | .invariant .. => "INVARIANT"
  | .cp1ControlUngated .. => "CP1_CONTROL_UNGATED"

/-- The pc a fault records: that of the instruction being fetched or executed (R370). -/
def Fault.pc : Fault → Word
  | .fetchUnmapped pc => pc
  | .fetchMisaligned pc => pc
  | .unknownInstruction pc .. => pc
  | .unimplemented pc .. => pc
  | .dataUnmapped pc .. => pc
  | .dataMisaligned pc .. => pc
  | .trap pc .. => pc
  | .breakpoint pc .. => pc
  | .divideCorner pc .. => pc
  | .unpredictableOperands pc .. => pc
  | .invariant pc .. => pc
  | .cp1ControlUngated pc .. => pc

/-- The info a fault records (R371). -/
def Fault.info : Fault → FaultInfo
  | .fetchUnmapped pc => .addr pc
  | .fetchMisaligned pc => .addr pc
  | .unknownInstruction _ word => .word word
  | .unimplemented _ group mnemonic => .text (groupName group ++ ":" ++ mnemonic)
  | .dataUnmapped _ addr => .addr addr
  | .dataMisaligned _ addr => .addr addr
  | .trap _ mnemonic => .text mnemonic
  | .breakpoint _ code => .code code
  | .divideCorner _ mnemonic => .text mnemonic
  | .unpredictableOperands _ mnemonic => .text mnemonic
  | .invariant _ description => .text description
  | .cp1ControlUngated _ mnemonic => .text mnemonic

/-- The outcome of a run (R391), `running` where the fuel ran out (R390). -/
inductive RunOutcome
  | exit (status : Word)
  | faulted (record : Fault)
  | hostRefused (n : Word)
  | halted
  | noSuchThread (thread : Nat)
  | midInstruction (thread : Nat)
  | running
  deriving DecidableEq, Repr

/-- The outcome that a refusal of `step` reports. -/
def Refusal.outcome : Refusal → RunOutcome
  | .runEnded (.exited status) => .exit status
  | .runEnded (.hostRefused n) => .hostRefused n
  | .runEnded .halted => .halted
  | .noSuchThread t => .noSuchThread t
  | .midInstruction t => .midInstruction t
  | _ => .running

/-- The end of R391 that holds before the next step, if one does: then `step` answers no next state. -/
def State.endsWith (s : State) : Option RunOutcome :=
  match step s with
  | .next _ => none
  | .fault f => some (.faulted f)
  | .refused r => some r.outcome

/-- Steps until the run ends or the fuel runs out (R390, R391): the ends are tested before every step, and before
`running` is answered. -/
def runFor : Nat → State → RunOutcome × State
  | 0, s => (s.endsWith.getD .running, s)
  | n + 1, s =>
    match step s with
    | .next s' => runFor n s'
    | .fault f => (.faulted f, s)
    | .refused r => (r.outcome, s)

/-- What a run outputs (R393): its outcome, the final state, and with them the warning log and the host streams. -/
structure RunOutput where
  outcome : RunOutcome
  final : State
  warnings : List (Word × String)
  hostOut1 : List Byte
  hostOut2 : List Byte
  deriving DecidableEq, Repr

/-- The output of a run of at most `n` steps (R393). -/
def runOutput (n : Nat) (s : State) : RunOutput :=
  let r := runFor n s
  { outcome := r.1, final := r.2, warnings := r.2.warnings, hostOut1 := r.2.hostOut1, hostOut2 := r.2.hostOut2 }

end Sys2Proof.Machine
end

