-- ==== Sys2Proof/Safety.lean ====
section
/-! DEFINITION. The terms the statements use: the invariant every step keeps, what an instruction may change (the frame),
completion, and the values of floating-point encodings as rational numbers. -/

namespace Sys2Proof.Machine

/-! ## The invariant -/

/-- `nnpc = u32(npc + 4)` (R27). -/
def Regs.inSequence (r : Regs) : Prop := r.nnpc = r.npc + 4

/-- What a decode cache holds (R42, R101): an entry is the decode of its word, its address is one a fetch can have, and a
core has one entry for an address. -/
def cacheOk (cache : List CacheEntry) : Prop :=
  (∀ e ∈ cache, e.inst = decodeStatic e.inst.encoding ∧ e.addr.toNat % 4 = 0) ∧
    cache.Pairwise fun e e' => ¬(e.core = e'.core ∧ e.addr = e'.addr)

/-- A thread that waits: its counters are in sequence, and so is the snapshot that leaving speculation would restore. -/
def Thread.inSequence (t : Thread) : Prop :=
  t.live.inSequence ∧ (t.isSpeculative = true → t.shadow.inSequence)

/-- The invariant: memory in its canonical form, the decode cache as R42 says, `nnpc = npc + 4` in every thread and in
every snapshot that can be restored, threads of distinct names, and at most one end of the run. -/
structure State.Inv (s : State) : Prop where
  memory : s.mem.wf = true
  cache : cacheOk s.decodeCache
  sequence : s.live.inSequence
  snapshot : s.isSpeculative = true → s.shadow.inSequence
  threads : ∀ t ∈ s.others, t.inSequence
  names : (s.tid :: s.others.map Thread.tid).Nodup
  oneEnd : s.faultRecord = none ∨ s.runEnd = none

/-- The run has not ended (R391). -/
def State.running (s : State) : Prop := s.faultRecord = none ∧ s.runEnd = none

/-- Every thread, the one about to step first (R384). -/
def State.threads (s : State) : List Thread := s.currentThread :: s.others

/-- The name of the thread that the next step is of: the one asked for, or with no schedule the same one (R384, R390). -/
def State.acting (s : State) : Nat :=
  match s.schedule with
  | [] => s.tid
  | e :: _ => e.thread

/-- A run of `n` steps that raises no fault (R391). -/
def SafeFor (n : Nat) (s : State) : Prop := ∀ f, (runFor n s).1 ≠ .faulted f

/-! ## Completion and frames -/

/-- An instruction answers a next state, and `P` holds of it. -/
def Completes (i : Instr) (s : State) (P : State → Prop) : Prop := ∃ t, exec i s = .next t ∧ P t

/-- A part of the machine that an instruction may change. -/
inductive Part
  | x (r : Reg)
  | fw (r : Reg)
  | lo
  | hi
  | ea
  | fcsr
  | npc
  | nnpc
  /-- The `n` bytes from an address, taken modulo 2^32. -/
  | mem (base : Word) (n : Nat)
  | warnings
  | faultRecord
  | runEnd
  | hostOut1
  | hostOut2
  | hostAnswers
  | mapped
  | draws
  deriving DecidableEq, Repr

/-- The part that a named register is (R46). -/
def RegName.part : RegName → Part
  | .x i => .x i
  | .fw i => .fw i
  | .lo => .lo
  | .hi => .hi
  | .ea => .ea
  | .fcsr => .fcsr

/-- Of the values that a list gives a key, the last. -/
def LastGiven {α β : Type} (l : List (α × β)) (k : α) (v : β) : Prop :=
  ∃ pre post, l = pre ++ (k, v) :: post ∧ ∀ p ∈ post, p.1 ≠ k

/-- A list gives a key no value. -/
def NotGiven {α β : Type} (l : List (α × β)) (k : α) : Prop := ∀ p ∈ l, p.1 ≠ k

/-- Both words of the pair a double field names (R34). -/
def pairParts (f : Reg) : List Part := [.fw (pairLow f), .fw (pairHigh f)]

/-- The frame: everything but the listed parts is unchanged. What no instruction changes (`pc`, the thread's name and
core, its speculative mode, snapshot and pending store, the other threads, the decode cache, the parameters, the halt
address and the schedule) is unchanged whatever the list. -/
structure OnlyChanges (parts : List Part) (s t : State) : Prop where
  x : ∀ r, .x r ∉ parts → t.reg r = s.reg r
  fw : ∀ r, .fw r ∉ parts → t.fw r = s.fw r
  lo : .lo ∉ parts → t.live.lo = s.live.lo
  hi : .hi ∉ parts → t.live.hi = s.live.hi
  ea : .ea ∉ parts → t.live.ea = s.live.ea
  fcsr : .fcsr ∉ parts → t.live.fcsr = s.live.fcsr
  npc : .npc ∉ parts → t.live.npc = s.live.npc
  nnpc : .nnpc ∉ parts → t.live.nnpc = s.live.nnpc
  mem : ∀ a : Word, (∀ base n, .mem base n ∈ parts → ¬(a - base).toNat < n) → t.mem.byteAt a = s.mem.byteAt a
  warnings : .warnings ∉ parts → t.warnings = s.warnings
  faultRecord : .faultRecord ∉ parts → t.faultRecord = s.faultRecord
  runEnd : .runEnd ∉ parts → t.runEnd = s.runEnd
  hostOut1 : .hostOut1 ∉ parts → t.hostOut1 = s.hostOut1
  hostOut2 : .hostOut2 ∉ parts → t.hostOut2 = s.hostOut2
  hostAnswers : .hostAnswers ∉ parts → t.hostAnswers = s.hostAnswers
  mapped : .mapped ∉ parts → t.mapped = s.mapped
  draws : .draws ∉ parts → t.draws = s.draws
  pc : t.live.pc = s.live.pc
  thread : t.tid = s.tid ∧ t.core = s.core ∧ t.isSpeculative = s.isSpeculative ∧ t.shadow = s.shadow ∧
    t.pendingStore = s.pendingStore
  outside : t.others = s.others ∧ t.decodeCache = s.decodeCache ∧ t.params = s.params ∧ t.haltPc = s.haltPc ∧
    t.schedule = s.schedule

/-- Every byte of an access is mapped (R62). -/
def State.mappedBytes (s : State) (a : Word) (n : Nat) : Prop := ∀ i < n, s.isMapped (a + BitVec.ofNat 32 i) = true

/-- An access of `n` bytes that faults neither way (R62, R63). -/
def State.accessible (s : State) (a : Word) (n : Nat) : Prop := a.toNat % n = 0 ∧ s.mappedBytes a n

/-- The address a load or store passes to memory and its width: `EA`, or for the partial-word forms `EA & ~3` (R67, R240,
R244). None for every other instruction. -/
def State.accessOf (s : State) : Instr → Option (Word × Nat)
  | .lb _ base offset | .lbu _ base offset | .sb _ base offset => some (s.effAddr base offset, 1)
  | .lh _ base offset | .lhu _ base offset | .sh _ base offset => some (s.effAddr base offset, 2)
  | .lw _ base offset | .ll _ base offset | .sw _ base offset | .sc _ base offset | .lwc1 _ base offset
  | .swc1 _ base offset => some (s.effAddr base offset, 4)
  | .lwl _ base offset | .lwr _ base offset | .swl _ base offset | .swr _ base offset =>
    some (alignWord (s.effAddr base offset), 4)
  | .ldc1 _ base offset | .sdc1 _ base offset => some (s.effAddr base offset, 8)
  | _ => none

/-! ## Floating-point encodings as numbers (R281 to R283, R316) -/

/-- The rational number a finite value is; none for infinities and NaNs. -/
def FloatVal.rat? : FloatVal → Option ℚ
  | .fin neg m e => some ((if neg then -1 else 1) * (m : ℚ) * (2 : ℚ) ^ e)
  | .inf _ => none
  | .nan => none

/-- The rational number a finite encoding denotes; none for infinities and NaNs. -/
def FloatFmt.value (f : FloatFmt) (bits : Nat) : Option ℚ := (f.unpack bits).rat?

/-- A NaN encoding: exponent all ones, fraction nonzero (R282). -/
def FloatFmt.isNaN (f : FloatFmt) (bits : Nat) : Prop :=
  bits / 2 ^ f.fracBits % 2 ^ f.expBits = f.maxExp ∧ bits % 2 ^ f.fracBits ≠ 0

/-- The encoding of an infinity. -/
def FloatFmt.infinity (f : FloatFmt) (neg : Bool) : Nat := f.signed neg f.infMagnitude

/-- An encoding is the nearest finite value of the format to a number, a tie going to the even encoding (R281). -/
def FloatFmt.Nearest (f : FloatFmt) (x : ℚ) (bits : Nat) : Prop :=
  ∃ v, f.value bits = some v ∧
    ∀ other w, f.value other = some w → |v - x| ≤ |w - x| ∧ (|v - x| = |w - x| → w = v ∨ bits % 2 = 0)

/-- The least magnitude that rounds to an infinity: half a unit of the last place above the largest finite value
(R281, IEEE 754). -/
def FloatFmt.overflowAt (f : FloatFmt) : ℚ :=
  ((2 : ℚ) ^ (f.fracBits + 1) - 1 / 2) * (2 : ℚ) ^ (f.minQuantum + (f.maxExp - 2 : ℕ))

/-- An encoding with its sign bit set. -/
def FloatFmt.negative (f : FloatFmt) (bits : Nat) : Prop := bits / f.signBit % 2 = 1

/-- An encoding is a nonzero number rounded once to nearest, ties to even (R281): the nearest finite value, or past the
finite range the infinity of the number's sign; a result of zero too has that sign. -/
def FloatFmt.Rounded (f : FloatFmt) (x : ℚ) (bits : Nat) : Prop :=
  (|x| < f.overflowAt → f.Nearest x bits) ∧
    (f.overflowAt ≤ |x| → bits = f.infinity (decide (x < 0))) ∧ (f.negative bits ↔ x < 0)

/-- `a < b` of R316: finite values as numbers, infinities by sign. -/
def FloatVal.below : FloatVal → FloatVal → Prop
  | .inf true, .fin _ _ _ => True
  | .inf true, .inf false => True
  | .fin _ _ _, .inf false => True
  | a, b => ∃ x y, a.rat? = some x ∧ b.rat? = some y ∧ x < y

/-- `a = b` of R316: finite values as numbers (so the zeros are equal), infinities by sign. -/
def FloatVal.same : FloatVal → FloatVal → Prop
  | .inf na, .inf nb => na = nb
  | a, b => ∃ x, a.rat? = some x ∧ b.rat? = some x

/-- What a compare tells of two encodings by its COND field (R316). -/
def FloatFmt.conditionHolds (f : FloatFmt) (cond : Nat) (a b : Nat) : Prop :=
  (cond.testBit 2 = true ∧ (f.unpack a).below (f.unpack b)) ∨
    (cond.testBit 1 = true ∧ (f.unpack a).same (f.unpack b)) ∨
      (cond.testBit 0 = true ∧ (f.isNaN a ∨ f.isNaN b))

/-- A compare's format, COND, condition bit and operand fields (R123, R316, R317). None for every other instruction. -/
def compareOf : Instr → Option (FloatFmt × Nat × BitVec 3 × Reg × Reg)
  | .cFS cc fs ft => some (.single, 0, cc, fs, ft)
  | .cUnS cc fs ft => some (.single, 1, cc, fs, ft)
  | .cEqS cc fs ft => some (.single, 2, cc, fs, ft)
  | .cUeqS cc fs ft => some (.single, 3, cc, fs, ft)
  | .cOltS cc fs ft => some (.single, 4, cc, fs, ft)
  | .cUltS cc fs ft => some (.single, 5, cc, fs, ft)
  | .cOleS cc fs ft => some (.single, 6, cc, fs, ft)
  | .cUleS cc fs ft => some (.single, 7, cc, fs, ft)
  | .cSfS cc fs ft => some (.single, 8, cc, fs, ft)
  | .cNgleS cc fs ft => some (.single, 9, cc, fs, ft)
  | .cSeqS cc fs ft => some (.single, 10, cc, fs, ft)
  | .cNglS cc fs ft => some (.single, 11, cc, fs, ft)
  | .cLtS cc fs ft => some (.single, 12, cc, fs, ft)
  | .cNgeS cc fs ft => some (.single, 13, cc, fs, ft)
  | .cLeS cc fs ft => some (.single, 14, cc, fs, ft)
  | .cNgtS cc fs ft => some (.single, 15, cc, fs, ft)
  | .cFD cc fs ft => some (.double, 0, cc, fs, ft)
  | .cUnD cc fs ft => some (.double, 1, cc, fs, ft)
  | .cEqD cc fs ft => some (.double, 2, cc, fs, ft)
  | .cUeqD cc fs ft => some (.double, 3, cc, fs, ft)
  | .cOltD cc fs ft => some (.double, 4, cc, fs, ft)
  | .cUltD cc fs ft => some (.double, 5, cc, fs, ft)
  | .cOleD cc fs ft => some (.double, 6, cc, fs, ft)
  | .cUleD cc fs ft => some (.double, 7, cc, fs, ft)
  | .cSfD cc fs ft => some (.double, 8, cc, fs, ft)
  | .cNgleD cc fs ft => some (.double, 9, cc, fs, ft)
  | .cSeqD cc fs ft => some (.double, 10, cc, fs, ft)
  | .cNglD cc fs ft => some (.double, 11, cc, fs, ft)
  | .cLtD cc fs ft => some (.double, 12, cc, fs, ft)
  | .cNgeD cc fs ft => some (.double, 13, cc, fs, ft)
  | .cLeD cc fs ft => some (.double, 14, cc, fs, ft)
  | .cNgtD cc fs ft => some (.double, 15, cc, fs, ft)
  | _ => none

/-- The encoding a format's view of a float field holds: `F.s` or `F.d` (R33, R34). -/
def State.viewOf (s : State) (f : FloatFmt) (i : Reg) : Nat :=
  if f = .single then (s.fw i).toNat else (s.fl i).toNat

end Sys2Proof.Machine
end

