-- ==== Sys2Proof/Certificates/Slice0/Obligations.lean ====
section
/-! DEFINITION. The statements for the provers. Each docstring names the rules it rests on. -/

section

open Sys2Proof Sys2Proof.Machine

/-! ## Encoding and decode -/

/-- R100, R103 to R123: for every well-formed instruction the decoder reads the encoder's word as that instruction, every
operand at every value. -/
def Obligations.RoundTrip : Prop :=
  ∀ i : Instr, i.wellFormed = true → decodeWord (encode i) = .instr i

/-- R91 to R96, R103, R107, R112, R113: every instruction the decoder gives is well-formed, and an implemented one
re-encodes to the word it was read from: no bit of the word is dropped, so no two words decode to one implemented
instruction. -/
def Obligations.DecodedWordsReencode : Prop :=
  ∀ (w : Word) (i : Instr), decodeWord w = .instr i →
    i.wellFormed = true ∧ (markerGroupOf i = none → encode i = w)

/-- R124 and 95: the literal words of the spec. -/
def Obligations.SpecWordsDecode : Prop :=
  decodeWord 0x00000000#32 = .instr (.nop 0) ∧
  decodeWord 0x10000003#32 = .instr (.b 3) ∧
  decodeWord 0x2c00abc2#32 = .instr .passSentinel ∧
  decodeWord 0x8c880004#32 = .instr (.lw 8 4 4) ∧
  decodeWord 0x0000000c#32 = .instr (.syscall 0) ∧
  decodeWord 0x4601003c#32 = .instr (.cLtS 0 0 1) ∧
  decodeWord 0x46241332#32 = .instr (.cEqD 3 2 4) ∧
  decodeWord 0x42000018#32 = .instr .eret ∧
  decodeWord 0xfc000000#32 = .unknown

/-- R103, R106: a word of an implemented row with a nonzero must-be-zero field is Unknown, but for the words that R111
gives to `rotr` (RS = 1), `rotrv` (SA = 1) and the hazard-barrier jumps (bit 10 set). -/
def Obligations.NonzeroReservedFieldIsUnknown : Prop :=
  ∀ w : Word,
    (Field.opcode w = 0 →
      (Field.func w = 0 ∨ Field.func w = 3 → Field.rs w ≠ 0 → decodeWord w = .unknown) ∧
      (Field.func w = 2 → Field.rs w ≠ 0 → Field.rs w ≠ 1 → decodeWord w = .unknown) ∧
      (Field.func w = 4 ∨ Field.func w = 7 → Field.sa w ≠ 0 → decodeWord w = .unknown) ∧
      (Field.func w = 6 → Field.sa w ≠ 0 → Field.sa w ≠ 1 → decodeWord w = .unknown) ∧
      (Field.func w = 8 → w.getLsbD 10 = false → (Field.rt w ≠ 0 ∨ Field.rd w ≠ 0 ∨ Field.sa w ≠ 0) →
        decodeWord w = .unknown) ∧
      (Field.func w = 9 → w.getLsbD 10 = false → (Field.rt w ≠ 0 ∨ Field.sa w ≠ 0) → decodeWord w = .unknown) ∧
      (Field.func w = 15 → (Field.rs w ≠ 0 ∨ Field.rt w ≠ 0 ∨ Field.rd w ≠ 0) → decodeWord w = .unknown) ∧
      (Field.func w = 16 ∨ Field.func w = 18 → (Field.rs w ≠ 0 ∨ Field.rt w ≠ 0 ∨ Field.sa w ≠ 0) →
        decodeWord w = .unknown) ∧
      (Field.func w = 17 ∨ Field.func w = 19 → (Field.rt w ≠ 0 ∨ Field.rd w ≠ 0 ∨ Field.sa w ≠ 0) →
        decodeWord w = .unknown) ∧
      (24 ≤ (Field.func w).toNat → (Field.func w).toNat ≤ 27 → (Field.rd w ≠ 0 ∨ Field.sa w ≠ 0) →
        decodeWord w = .unknown) ∧
      (32 ≤ (Field.func w).toNat → (Field.func w).toNat ≤ 43 → Field.sa w ≠ 0 → decodeWord w = .unknown)) ∧
    (Field.opcode w = 6 ∨ Field.opcode w = 7 → Field.rt w ≠ 0 → decodeWord w = .unknown) ∧
    (Field.opcode w = 15 → Field.rs w ≠ 0 → decodeWord w = .unknown) ∧
    (Field.opcode w = 17 →
      (Field.rs w = 0 ∨ Field.rs w = 2 ∨ Field.rs w = 4 ∨ Field.rs w = 6 → w.extractLsb' 0 11 ≠ 0 →
        decodeWord w = .unknown) ∧
      (Field.rs w = 16 ∨ Field.rs w = 17 → 4 ≤ (Field.func w).toNat → (Field.func w).toNat ≤ 7 → Field.rt w ≠ 0 →
        decodeWord w = .unknown) ∧
      (Field.rs w = 16 ∧ (Field.func w = 33 ∨ Field.func w = 36 ∨ Field.func w = 37) ∨
        Field.rs w = 17 ∧ (Field.func w = 32 ∨ Field.func w = 36 ∨ Field.func w = 37) ∨
        (Field.rs w = 20 ∨ Field.rs w = 21) ∧ (Field.func w = 32 ∨ Field.func w = 33) → Field.rt w ≠ 0 →
        decodeWord w = .unknown) ∧
      (Field.rs w = 16 ∨ Field.rs w = 17 → 48 ≤ (Field.func w).toNat → w.extractLsb' 6 2 ≠ 0 →
        decodeWord w = .unknown))

/-- R133: the disassembly examples, character for character. -/
def Obligations.DisassemblyExamples : Prop :=
  disassemble 0x00400000#32 (decodeStatic 0x24080005#32) = "0x00400000 : 0x24080005 addiu $t0, $zero, 5" ∧
  disassemble 0x00400008#32 (decodeStatic 0x1000fffe#32) = "0x00400008 : 0x1000fffe b 0x00400004" ∧
  disassemble 0x0040000c#32 (decodeStatic 0x00000000#32) = "0x0040000c : 0x00000000 nop "

/-! ## State, memory, decode cache -/

/-- R47, R401: the value of every piece of per-thread and per-core state after reset, for every launch entry: of the machine
right after reset, and of every thread of a launch that sets no register. That `State.reset`'s entry is `Config.launchEntry`
is the model's choice (log 3). -/
def Obligations.ResetValues : Prop :=
  ∀ l : Launch,
    let zero (r : Regs) : Prop :=
      (∀ i, r.getX i = 0) ∧ (∀ i, r.getFw i = 0) ∧ r.lo = 0 ∧ r.hi = 0 ∧ r.ea = 0 ∧ r.fcsr = 0
    let fresh (r rec : Regs) (speculative : Bool) (entry : Word) : Prop :=
      zero r ∧ r.pc = entry ∧ r.npc = entry + 4 ∧ r.nnpc = entry + 8 ∧ speculative = false ∧
        zero rec ∧ rec.pc = 0 ∧ rec.npc = 0 ∧ rec.nnpc = 0
    let empty (s : State) : Prop := s.decodeCache = [] ∧ s.faultRecord = none ∧ s.warnings = []
    fresh State.reset.live State.reset.shadow State.reset.isSpeculative Config.launchEntry ∧ empty State.reset ∧
    (l.first.regs = [] →
      fresh (State.launch l).live (State.launch l).shadow (State.launch l).isSpeculative l.first.entry) ∧
    (∀ t ∈ l.rest, t.regs = [] →
      t.thread ∈ (State.launch l).others ∧ fresh t.thread.live t.thread.shadow t.thread.isSpeculative t.entry) ∧
    empty (State.launch l)

/-- R384, R400 to R402: every thread of the launch, the first and those that wait, has its name, core and entry, the value
last given to each register and 0 in a register given none; memory has the byte last given to each address and 0 in one
given none; the mapping, halt address, parameters, schedule and host answers are the launch's; cache, record and log are
empty. That registers and image are lists of which the last value stands is the model's choice (log 14). -/
def Obligations.LaunchState : Prop :=
  ∀ l : Launch,
    let s := State.launch l
    let starts (t : LaunchThread) (u : Thread) : Prop :=
      u.tid = t.tid ∧ u.core = t.core ∧ u.live.pc = t.entry ∧ u.live.npc = t.entry + 4 ∧ u.live.nnpc = t.entry + 8 ∧
      (∀ n v, LastGiven t.regs n v → u.live.getNamed n = v) ∧ (∀ n, NotGiven t.regs n → u.live.getNamed n = 0) ∧
      u.isSpeculative = false ∧ u.pendingStore = none
    let image := l.image.map fun c => (c.1 % 2 ^ 32, c.2)
    starts l.first s.currentThread ∧ List.Forall₂ starts l.rest s.others ∧
    (∀ (a : Word) v, LastGiven image a.toNat v → s.mem.byteAt a = v) ∧
    (∀ a : Word, NotGiven image a.toNat → s.mem.byteAt a = 0) ∧ s.mem.wf = true ∧
    s.mapped = l.mapped ∧ s.haltPc = l.haltPc ∧ s.params = l.params ∧ s.schedule = l.schedule ∧
    s.hostAnswers = l.hostAnswers ∧ s.decodeCache = [] ∧ s.faultRecord = none ∧ s.warnings = []

/-- R33 to R35: the double view of field `i` is the pair `2*floor(i/2)`, `2*floor(i/2)+1`, the odd word high; a write of
it is read back by every field of the pair and changes no other word; a write of a single word changes its half. -/
def Obligations.FloatViewsAlias : Prop :=
  ∀ (s : State) (i j : Reg) (v : DWord) (u : Word),
    (pairLow i).toNat = 2 * (i.toNat / 2) ∧ (pairHigh i).toNat = 2 * (i.toNat / 2) + 1 ∧
    (s.fl i).toNat = (s.fw (pairHigh i)).toNat * 2 ^ 32 + (s.fw (pairLow i)).toNat ∧
    (i.toNat / 2 = j.toNat / 2 → (s.setFl i v).fl j = v) ∧
    (i.toNat / 2 ≠ j.toNat / 2 → (s.setFl i v).fw j = s.fw j ∧ (s.setFl i v).fl j = s.fl j) ∧
    (s.setFl i v).fw (pairLow i) = v.setWidth 32 ∧ (s.setFl i v).fw (pairHigh i) = (v >>> 32).setWidth 32 ∧
    (i.toNat % 2 = 1 → (s.setFw i u).fl i = u ++ s.fw (pairLow i)) ∧
    (i.toNat % 2 = 0 → (s.setFw i u).fl i = s.fw (pairHigh i) ++ u)

/-- R62 to R64: a halfword, word or doubleword read is the sum of its bytes, byte `i` times 2^(8i); after a write of 2, 4 or
8 bytes, byte `a + i` holds bits `8i+7 : 8i` of the value, every other byte is as before, and the canonical form is kept. -/
def Obligations.MemoryIsLittleEndian : Prop :=
  ∀ (m : Memory) (a : Word) (h : BitVec 16) (w : Word) (d : DWord) (b : Word),
    (m.halfAt a).toNat = ∑ i ∈ Finset.range 2, (m.byteAt (a + BitVec.ofNat 32 i)).toNat * 2 ^ (8 * i) ∧
    (m.wordAt a).toNat = ∑ i ∈ Finset.range 4, (m.byteAt (a + BitVec.ofNat 32 i)).toNat * 2 ^ (8 * i) ∧
    (m.doubleAt a).toNat = ∑ i ∈ Finset.range 8, (m.byteAt (a + BitVec.ofNat 32 i)).toNat * 2 ^ (8 * i) ∧
    (∀ i < 2, (m.setHalf a h).byteAt (a + BitVec.ofNat 32 i) = h.extractLsb' (8 * i) 8) ∧
    (∀ i < 4, (m.setWord a w).byteAt (a + BitVec.ofNat 32 i) = w.extractLsb' (8 * i) 8) ∧
    (∀ i < 8, (m.setDouble a d).byteAt (a + BitVec.ofNat 32 i) = d.extractLsb' (8 * i) 8) ∧
    (2 ≤ (b - a).toNat → (m.setHalf a h).byteAt b = m.byteAt b) ∧
    (4 ≤ (b - a).toNat → (m.setWord a w).byteAt b = m.byteAt b) ∧
    (8 ≤ (b - a).toNat → (m.setDouble a d).byteAt b = m.byteAt b) ∧
    (m.wf = true → (m.setHalf a h).wf = true ∧ (m.setWord a w).wf = true ∧ (m.setDouble a d).wf = true)

/-- R62, R63, R65, R66, R375: an access of 1, 2, 4 or 8 bytes faults misaligned when its address is no multiple of its
width, else unmapped when a byte is unmapped, else not at all; a fetch likewise, of 4 bytes, under its own kinds. -/
def Obligations.AccessChecks : Prop :=
  ∀ (s : State) (a : Word) (n : Nat), n = 1 ∨ n = 2 ∨ n = 4 ∨ n = 8 →
    (a.toNat % n ≠ 0 → s.accessFault a n = some (.dataMisaligned s.live.pc a)) ∧
    (a.toNat % n = 0 → ¬s.mappedBytes a n → s.accessFault a n = some (.dataUnmapped s.live.pc a)) ∧
    (s.accessible a n → s.accessFault a n = none) ∧
    (a.toNat % 4 ≠ 0 → s.fetchFault a = some (.fetchMisaligned a)) ∧
    (a.toNat % 4 = 0 → ¬s.mappedBytes a 4 → s.fetchFault a = some (.fetchUnmapped a)) ∧
    (s.accessible a 4 → s.fetchFault a = none)

/-- R8, R42, R66, R101: at any address, a decode-cache hit returns the entry whatever memory and the mapping hold; a miss
faults as the fetch does, or decodes the word there, inserts it for the thread's core, and changes nothing else, neither
another address of that core's cache nor the cache of another core. -/
def Obligations.DecodeUsesTheCache : Prop :=
  ∀ (s : State) (pc : Word) (inst : StaticInst) (m : Memory) (rs : List Region),
    (s.cacheLookup pc = some inst →
      (({ s with mem := m, mapped := rs } : State).decodeAt pc = .ok (inst, { s with mem := m, mapped := rs }))) ∧
    (s.cacheLookup pc = none → ∀ f, s.fetchFault pc = some f → s.decodeAt pc = .error f) ∧
    (s.cacheLookup pc = none → s.fetchFault pc = none →
      ∃ t, s.decodeAt pc = .ok (decodeStatic (s.mem.wordAt pc), t) ∧
        t.cacheLookup pc = some (decodeStatic (s.mem.wordAt pc)) ∧
        (∀ core p, core ≠ s.core ∨ p ≠ pc →
          ({ t with core := core } : State).cacheLookup p = ({ s with core := core } : State).cacheLookup p) ∧
        t = { s with decodeCache := t.decodeCache }) ∧
    s.decode = s.decodeAt s.live.pc

/-- R42, R77, R413: no step removes or replaces a decode-cache entry of any core, whatever it stores. -/
def Obligations.DecodeCacheIsNeverInvalidated : Prop :=
  ∀ (s t : State) (core : Nat) (p : Word) (inst : StaticInst), step s = .next t →
    ({ s with core := core } : State).cacheLookup p = some inst →
    ({ t with core := core } : State).cacheLookup p = some inst

/-! ## Integer instructions -/

/-- R140 to R145, R173: the shifts, as arithmetic on the value; variable shifts by the amount modulo 32. Each completes in
every state and changes only its destination. -/
def Obligations.ShiftResults : Prop :=
  ∀ (s : State) (rd rt rs : Reg) (sa : BitVec 5),
    Completes (.sll rd rt sa) s (fun t =>
      t.reg rd = BitVec.ofNat 32 ((s.reg rt).toNat * 2 ^ sa.toNat) ∧ OnlyChanges [.x rd] s t) ∧
    Completes (.srl rd rt sa) s (fun t =>
      t.reg rd = BitVec.ofNat 32 ((s.reg rt).toNat / 2 ^ sa.toNat) ∧ OnlyChanges [.x rd] s t) ∧
    Completes (.sra rd rt sa) s (fun t =>
      t.reg rd = BitVec.ofInt 32 ((s.reg rt).toInt / 2 ^ sa.toNat) ∧ OnlyChanges [.x rd] s t) ∧
    Completes (.sllv rd rt rs) s (fun t =>
      t.reg rd = BitVec.ofNat 32 ((s.reg rt).toNat * 2 ^ ((s.reg rs).toNat % 32)) ∧ OnlyChanges [.x rd] s t) ∧
    Completes (.srlv rd rt rs) s (fun t =>
      t.reg rd = BitVec.ofNat 32 ((s.reg rt).toNat / 2 ^ ((s.reg rs).toNat % 32)) ∧ OnlyChanges [.x rd] s t) ∧
    Completes (.srav rd rt rs) s (fun t =>
      t.reg rd = BitVec.ofInt 32 ((s.reg rt).toInt / 2 ^ ((s.reg rs).toNat % 32)) ∧ OnlyChanges [.x rd] s t)

/-- R147, R149 to R155: the register ALU instructions that do not warn. -/
def Obligations.RegisterAluResults : Prop :=
  ∀ (s : State) (rd rs rt : Reg),
    Completes (.addu rd rs rt) s (fun t =>
      t.reg rd = BitVec.ofNat 32 ((s.reg rs).toNat + (s.reg rt).toNat) ∧ OnlyChanges [.x rd] s t) ∧
    Completes (.subu rd rs rt) s (fun t =>
      t.reg rd = BitVec.ofInt 32 ((s.reg rs).toNat - (s.reg rt).toNat : Int) ∧ OnlyChanges [.x rd] s t) ∧
    Completes (.and rd rs rt) s (fun t =>
      (∀ k < 32, (t.reg rd).getLsbD k = ((s.reg rs).getLsbD k && (s.reg rt).getLsbD k)) ∧ OnlyChanges [.x rd] s t) ∧
    Completes (.or rd rs rt) s (fun t =>
      (∀ k < 32, (t.reg rd).getLsbD k = ((s.reg rs).getLsbD k || (s.reg rt).getLsbD k)) ∧ OnlyChanges [.x rd] s t) ∧
    Completes (.xor rd rs rt) s (fun t =>
      (∀ k < 32, (t.reg rd).getLsbD k = ((s.reg rs).getLsbD k != (s.reg rt).getLsbD k)) ∧ OnlyChanges [.x rd] s t) ∧
    Completes (.nor rd rs rt) s (fun t =>
      (∀ k < 32, (t.reg rd).getLsbD k = !((s.reg rs).getLsbD k || (s.reg rt).getLsbD k)) ∧
        OnlyChanges [.x rd] s t) ∧
    Completes (.slt rd rs rt) s (fun t =>
      ((s.reg rs).toInt < (s.reg rt).toInt → t.reg rd = 1) ∧ (¬(s.reg rs).toInt < (s.reg rt).toInt → t.reg rd = 0) ∧
        OnlyChanges [.x rd] s t) ∧
    Completes (.sltu rd rs rt) s (fun t =>
      ((s.reg rs).toNat < (s.reg rt).toNat → t.reg rd = 1) ∧ (¬(s.reg rs).toNat < (s.reg rt).toNat → t.reg rd = 0) ∧
        OnlyChanges [.x rd] s t)

/-- R146, R148, R164, R172, R374, R378: `add`, `sub` and `addi` write the result modulo 2^32, and append `(pc, mnemonic)` to
the warning log exactly when the signed result is outside `[-2^31, 2^31)`. -/
def Obligations.OverflowWarnsAndWraps : Prop :=
  ∀ (s : State) (rd rs rt : Reg) (imm : BitVec 16),
    let sums (mnemonic : String) (d : Reg) (r : Int) (t : State) : Prop :=
      (t.reg d).toInt = r.bmod (2 ^ 32) ∧
      (-2 ^ 31 ≤ r ∧ r < 2 ^ 31 → t.warnings = s.warnings) ∧
      (r < -2 ^ 31 ∨ 2 ^ 31 ≤ r → t.warnings = s.warnings ++ [(s.live.pc, mnemonic)]) ∧
      OnlyChanges [.x d, .warnings] s t
    Completes (.add rd rs rt) s (sums "add" rd ((s.reg rs).toInt + (s.reg rt).toInt)) ∧
    Completes (.sub rd rs rt) s (sums "sub" rd ((s.reg rs).toInt - (s.reg rt).toInt)) ∧
    Completes (.addi rt rs imm) s (sums "addi" rt ((s.reg rs).toInt + imm.toInt))

/-- R98, R165 to R171: the immediate instructions; `sltiu` by SLTIU_IMM. -/
def Obligations.ImmediateResults : Prop :=
  ∀ (s : State) (rt rs : Reg) (imm : BitVec 16),
    Completes (.addiu rt rs imm) s (fun t =>
      t.reg rt = BitVec.ofInt 32 ((s.reg rs).toInt + imm.toInt) ∧ OnlyChanges [.x rt] s t) ∧
    Completes (.slti rt rs imm) s (fun t =>
      ((s.reg rs).toInt < imm.toInt → t.reg rt = 1) ∧ (¬(s.reg rs).toInt < imm.toInt → t.reg rt = 0) ∧
        OnlyChanges [.x rt] s t) ∧
    Completes (.sltiu rt rs imm) s (fun t =>
      (s.params.sltiuImm = .zext → t.reg rt = if (s.reg rs).toNat < imm.toNat then 1 else 0) ∧
      (s.params.sltiuImm = .sext →
        t.reg rt = if ((s.reg rs).toNat : Int) < imm.toInt % 2 ^ 32 then 1 else 0) ∧
      OnlyChanges [.x rt] s t) ∧
    Completes (.andi rt rs imm) s (fun t =>
      (t.reg rt).toNat = (s.reg rs).toNat % 2 ^ 16 &&& imm.toNat ∧ OnlyChanges [.x rt] s t) ∧
    Completes (.ori rt rs imm) s (fun t =>
      (t.reg rt).toNat = (s.reg rs).toNat ||| imm.toNat ∧ OnlyChanges [.x rt] s t) ∧
    Completes (.xori rt rs imm) s (fun t =>
      (t.reg rt).toNat = (s.reg rs).toNat ^^^ imm.toNat ∧ OnlyChanges [.x rt] s t) ∧
    Completes (.lui rt imm) s (fun t => (t.reg rt).toNat = imm.toNat * 2 ^ 16 ∧ OnlyChanges [.x rt] s t)

/-- R156, R157, R160 to R163: the product stands exactly in `hi ++ lo`; the moves copy `hi` and `lo`. -/
def Obligations.MultiplyAndHiLoResults : Prop :=
  ∀ (s : State) (rd rs rt : Reg),
    Completes (.mult rs rt) s (fun t =>
      (t.live.hi ++ t.live.lo : BitVec 64).toInt = (s.reg rs).toInt * (s.reg rt).toInt ∧
        OnlyChanges [.lo, .hi] s t) ∧
    Completes (.multu rs rt) s (fun t =>
      (t.live.hi ++ t.live.lo : BitVec 64).toNat = (s.reg rs).toNat * (s.reg rt).toNat ∧
        OnlyChanges [.lo, .hi] s t) ∧
    Completes (.mfhi rd) s (fun t => t.reg rd = s.live.hi ∧ OnlyChanges [.x rd] s t) ∧
    Completes (.mflo rd) s (fun t => t.reg rd = s.live.lo ∧ OnlyChanges [.x rd] s t) ∧
    Completes (.mthi rs) s (fun t => t.live.hi = s.reg rs ∧ OnlyChanges [.hi] s t) ∧
    Completes (.mtlo rs) s (fun t => t.live.lo = s.reg rs ∧ OnlyChanges [.lo] s t)

/-- R158, R159: outside the corners, `div` leaves a quotient and a remainder with `a = q*b + r`, `|r| < |b|` and `r` of the
dividend's sign or 0; `divu` the unsigned ones. -/
def Obligations.DivideResults : Prop :=
  ∀ (s : State) (rs rt : Reg), s.reg rt ≠ 0 →
    (¬(s.reg rs = 0x80000000#32 ∧ s.reg rt = 0xFFFFFFFF#32) →
      Completes (.div rs rt) s (fun t =>
        (s.reg rs).toInt = t.live.lo.toInt * (s.reg rt).toInt + t.live.hi.toInt ∧
        t.live.hi.toInt.natAbs < (s.reg rt).toInt.natAbs ∧
        (t.live.hi.toInt = 0 ∨ (t.live.hi.toInt < 0 ↔ (s.reg rs).toInt < 0)) ∧ OnlyChanges [.lo, .hi] s t)) ∧
    Completes (.divu rs rt) s (fun t =>
      (s.reg rs).toNat = t.live.lo.toNat * (s.reg rt).toNat + t.live.hi.toNat ∧
        t.live.hi.toNat < (s.reg rt).toNat ∧ OnlyChanges [.lo, .hi] s t)

/-- R158, R159, R371: the corners of the divide by DIV_ZERO and DIV_OVF: a fault DIVIDE_CORNER that writes neither `lo` nor
`hi`, or the other setting's result. Under `draw` the two values are free. -/
def Obligations.DivideCorners : Prop :=
  ∀ (s : State) (rs rt : Reg), s.faultRecord = none →
    (s.reg rt = 0 → s.params.divZero = .fault →
      Completes (.div rs rt) s (fun t =>
        t.faultRecord = some (.divideCorner s.live.pc "div") ∧ OnlyChanges [.faultRecord] s t) ∧
      Completes (.divu rs rt) s (fun t =>
        t.faultRecord = some (.divideCorner s.live.pc "divu") ∧ OnlyChanges [.faultRecord] s t)) ∧
    (s.reg rt = 0 → s.params.divZero = .draw →
      Completes (.div rs rt) s (OnlyChanges [.lo, .hi, .draws] s) ∧
      Completes (.divu rs rt) s (OnlyChanges [.lo, .hi, .draws] s)) ∧
    (s.reg rs = 0x80000000#32 → s.reg rt = 0xFFFFFFFF#32 → s.params.divOvf = .fault →
      Completes (.div rs rt) s (fun t =>
        t.faultRecord = some (.divideCorner s.live.pc "div") ∧ OnlyChanges [.faultRecord] s t)) ∧
    (s.reg rs = 0x80000000#32 → s.reg rt = 0xFFFFFFFF#32 → s.params.divOvf = .mips →
      Completes (.div rs rt) s (fun t =>
        t.live.lo = 0x80000000#32 ∧ t.live.hi = 0 ∧ OnlyChanges [.lo, .hi] s t))

/-! ## Branches and jumps -/

/-- R201, R202, R206 to R212: a branch whose condition holds writes `u32(npc + 4 * OFFSET)` into `nnpc`; one whose condition
does not hold writes nothing. -/
def Obligations.ConditionalBranches : Prop :=
  ∀ (s : State) (rs rt : Reg) (offset : BitVec 16),
    let branches (cond : Prop) (t : State) : Prop :=
      (cond → t.live.nnpc = s.live.npc + BitVec.ofInt 32 (4 * offset.toInt)) ∧
      (¬cond → t.live.nnpc = s.live.nnpc) ∧ OnlyChanges [.nnpc] s t
    Completes (.b offset) s (branches True) ∧
    Completes (.beq rs rt offset) s (branches (s.reg rs = s.reg rt)) ∧
    Completes (.bne rs rt offset) s (branches (s.reg rs ≠ s.reg rt)) ∧
    Completes (.blez rs offset) s (branches ((s.reg rs).toInt ≤ 0)) ∧
    Completes (.bgtz rs offset) s (branches (0 < (s.reg rs).toInt)) ∧
    Completes (.bltz rs offset) s (branches ((s.reg rs).toInt < 0)) ∧
    Completes (.bgez rs offset) s (branches (0 ≤ (s.reg rs).toInt))

/-- R204, R213 to R215: the linking branches write the old `nnpc` into `x[31]` whether or not they are taken, the condition
read before the link; with rs = 31 `bltzal` and `bgezal` fault before any write under LINK_RS31 = fault. -/
def Obligations.LinkingBranches : Prop :=
  ∀ (s : State) (rs : Reg) (offset : BitVec 16),
    let links (cond : Prop) (t : State) : Prop :=
      t.reg 31 = s.live.nnpc ∧ (cond → t.live.nnpc = s.live.npc + BitVec.ofInt 32 (4 * offset.toInt)) ∧
      (¬cond → t.live.nnpc = s.live.nnpc) ∧ OnlyChanges [.x 31, .nnpc] s t
    Completes (.bal offset) s (links True) ∧
    (rs ≠ 31 ∨ s.params.linkRs31 = .readFirst →
      Completes (.bltzal rs offset) s (links ((s.reg rs).toInt < 0)) ∧
      Completes (.bgezal rs offset) s (links (0 ≤ (s.reg rs).toInt))) ∧
    (s.faultRecord = none → s.params.linkRs31 = .fault →
      Completes (.bltzal 31 offset) s (fun t =>
        t.faultRecord = some (.unpredictableOperands s.live.pc "bltzal") ∧ OnlyChanges [.faultRecord] s t) ∧
      Completes (.bgezal 31 offset) s (fun t =>
        t.faultRecord = some (.unpredictableOperands s.live.pc "bgezal") ∧ OnlyChanges [.faultRecord] s t))

/-- R220 to R223: the jumps; the region is that of `npc`; `jr` and `jalr` mask nothing; `jalr` links into `x[rd]` and reads
its target first; with rd = rs it faults before any write under JALR_RD_EQ_RS = fault. -/
def Obligations.Jumps : Prop :=
  ∀ (s : State) (rd rs : Reg) (target : BitVec 26),
    Completes (.j target) s (fun t =>
      t.live.nnpc.toNat = s.live.npc.toNat / 2 ^ 28 * 2 ^ 28 + target.toNat * 4 ∧ OnlyChanges [.nnpc] s t) ∧
    Completes (.jal target) s (fun t =>
      t.live.nnpc.toNat = s.live.npc.toNat / 2 ^ 28 * 2 ^ 28 + target.toNat * 4 ∧ t.reg 31 = s.live.nnpc ∧
        OnlyChanges [.x 31, .nnpc] s t) ∧
    Completes (.jr rs) s (fun t => t.live.nnpc = s.reg rs ∧ OnlyChanges [.nnpc] s t) ∧
    (rd ≠ rs ∨ s.params.jalrRdEqRs = .readFirst →
      Completes (.jalr rd rs) s (fun t =>
        t.live.nnpc = s.reg rs ∧ t.reg rd = s.live.nnpc ∧ OnlyChanges [.x rd, .nnpc] s t)) ∧
    (s.faultRecord = none → s.params.jalrRdEqRs = .fault →
      Completes (.jalr rs rs) s (fun t =>
        t.faultRecord = some (.unpredictableOperands s.live.pc "jalr") ∧ OnlyChanges [.faultRecord] s t))

/-- R203, R216 to R219: the branches on a condition bit; a likely branch not taken moves `npc` and `nnpc` on by 4. -/
def Obligations.ConditionBitBranches : Prop :=
  ∀ (s : State) (cc : BitVec 3) (offset : BitVec 16),
    let bit := s.live.fcsr.getLsbD (if cc = 0 then 23 else 24 + cc.toNat)
    let taken (t : State) : Prop :=
      t.live.nnpc = s.live.npc + BitVec.ofInt 32 (4 * offset.toInt) ∧ OnlyChanges [.nnpc] s t
    let skips (t : State) : Prop :=
      t.live.npc = s.live.npc + 4 ∧ t.live.nnpc = s.live.nnpc + 4 ∧ OnlyChanges [.npc, .nnpc] s t
    (bit = false → Completes (.bc1f cc offset) s taken ∧ Completes (.bc1t cc offset) s (OnlyChanges [] s) ∧
      Completes (.bc1fl cc offset) s taken ∧ Completes (.bc1tl cc offset) s skips) ∧
    (bit = true → Completes (.bc1t cc offset) s taken ∧ Completes (.bc1f cc offset) s (OnlyChanges [] s) ∧
      Completes (.bc1tl cc offset) s taken ∧ Completes (.bc1fl cc offset) s skips)

/-! ## Loads and stores -/

/-- R240 to R242, R245 to R250: the loads of a general register, for every aligned and mapped address: the bytes read
little-endian and extended, and `ea` the address. -/
def Obligations.LoadResults : Prop :=
  ∀ (s : State) (rt base : Reg) (offset : BitVec 16),
    let a := s.effAddr base offset
    let byte (i : Nat) : Nat := (s.mem.byteAt (a + BitVec.ofNat 32 i)).toNat
    let loads (value : Int) (t : State) : Prop :=
      t.reg rt = BitVec.ofInt 32 value ∧ t.live.ea = a ∧ OnlyChanges [.x rt, .ea] s t
    a.toInt = ((s.reg base).toInt + offset.toInt).bmod (2 ^ 32) ∧
    (s.accessible a 1 →
      Completes (.lb rt base offset) s (loads ((byte 0 : Int).bmod (2 ^ 8))) ∧
      Completes (.lbu rt base offset) s (loads (byte 0))) ∧
    (s.accessible a 2 →
      Completes (.lh rt base offset) s (loads ((byte 0 + 2 ^ 8 * byte 1 : Int).bmod (2 ^ 16))) ∧
      Completes (.lhu rt base offset) s (loads (byte 0 + 2 ^ 8 * byte 1))) ∧
    (s.accessible a 4 →
      Completes (.lw rt base offset) s
        (loads (byte 0 + 2 ^ 8 * byte 1 + 2 ^ 16 * byte 2 + 2 ^ 24 * byte 3)) ∧
      Completes (.ll rt base offset) s
        (loads (byte 0 + 2 ^ 8 * byte 1 + 2 ^ 16 * byte 2 + 2 ^ 24 * byte 3)))

/-- R244, R251, R252: byte by byte, `lwl` puts the bytes from `EA` down to the word's start into the top of `x[rt]`, and
`lwr` the bytes from `EA` up to the word's end into its bottom; the register's other bytes stay. -/
def Obligations.PartialLoadResults : Prop :=
  ∀ (s : State) (rt base : Reg) (offset : BitVec 16),
    let ea := s.effAddr base offset
    let bo := ea.toNat % 4
    s.mappedBytes (alignWord ea) 4 →
    Completes (.lwl rt base offset) s (fun t =>
      (∀ j < 4, (t.reg rt).extractLsb' (8 * (3 - j)) 8 =
        if j ≤ bo then s.mem.byteAt (ea - BitVec.ofNat 32 j) else (s.reg rt).extractLsb' (8 * (3 - j)) 8) ∧
      t.live.ea.toNat = ea.toNat / 4 * 4 ∧ OnlyChanges [.x rt, .ea] s t) ∧
    Completes (.lwr rt base offset) s (fun t =>
      (∀ j < 4, (t.reg rt).extractLsb' (8 * j) 8 =
        if bo + j ≤ 3 then s.mem.byteAt (ea + BitVec.ofNat 32 j) else (s.reg rt).extractLsb' (8 * j) 8) ∧
      t.live.ea.toNat = ea.toNat / 4 * 4 ∧ OnlyChanges [.x rt, .ea] s t)

/-- R34, R253, R254, R261, R262: the float loads and stores move bits unchanged; the double forms the pair of `ft`, whose
even word is the low half. -/
def Obligations.FloatLoadsAndStores : Prop :=
  ∀ (s : State) (ft base : Reg) (offset : BitVec 16),
    let a := s.effAddr base offset
    (s.accessible a 4 →
      Completes (.lwc1 ft base offset) s (fun t =>
        (∀ i < 4, (t.fw ft).extractLsb' (8 * i) 8 = s.mem.byteAt (a + BitVec.ofNat 32 i)) ∧ t.live.ea = a ∧
          OnlyChanges [.fw ft, .ea] s t) ∧
      Completes (.swc1 ft base offset) s (fun t =>
        (∀ i < 4, t.mem.byteAt (a + BitVec.ofNat 32 i) = (s.fw ft).extractLsb' (8 * i) 8) ∧ t.live.ea = a ∧
          OnlyChanges [.mem a 4, .ea] s t)) ∧
    (s.accessible a 8 →
      Completes (.ldc1 ft base offset) s (fun t =>
        (∀ i < 4, (t.fw (pairLow ft)).extractLsb' (8 * i) 8 = s.mem.byteAt (a + BitVec.ofNat 32 i) ∧
          (t.fw (pairHigh ft)).extractLsb' (8 * i) 8 = s.mem.byteAt (a + BitVec.ofNat 32 (4 + i))) ∧
          t.live.ea = a ∧ OnlyChanges (.ea :: pairParts ft) s t) ∧
      Completes (.sdc1 ft base offset) s (fun t =>
        (∀ i < 4, t.mem.byteAt (a + BitVec.ofNat 32 i) = (s.fw (pairLow ft)).extractLsb' (8 * i) 8 ∧
          t.mem.byteAt (a + BitVec.ofNat 32 (4 + i)) = (s.fw (pairHigh ft)).extractLsb' (8 * i) 8) ∧
          t.live.ea = a ∧ OnlyChanges [.mem a 8, .ea] s t))

/-- R76, R255 to R258: the stores of a general register, for every aligned and mapped address: the low bytes of `x[rt]` at
the address, no other byte changed; `sc` always stores and then always writes 1. -/
def Obligations.StoreResults : Prop :=
  ∀ (s : State) (rt base : Reg) (offset : BitVec 16),
    let a := s.effAddr base offset
    let stores (n : Nat) (more : List Part) (t : State) : Prop :=
      (∀ i < n, t.mem.byteAt (a + BitVec.ofNat 32 i) = (s.reg rt).extractLsb' (8 * i) 8) ∧ t.live.ea = a ∧
        OnlyChanges (.mem a n :: .ea :: more) s t
    (s.accessible a 1 → Completes (.sb rt base offset) s (stores 1 [])) ∧
    (s.accessible a 2 → Completes (.sh rt base offset) s (stores 2 [])) ∧
    (s.accessible a 4 → Completes (.sw rt base offset) s (stores 4 []) ∧
      Completes (.sc rt base offset) s (fun t => stores 4 [.x rt] t ∧ t.reg rt = 1))

/-- R68, R244, R259, R260: byte by byte, `swl` stores the top bytes of `x[rt]` from `EA` down to the word's start, and `swr`
its bottom bytes from `EA` up to the word's end; no byte outside those changes. Their two accesses are two events: asked for
a step up to its store, a thread reads memory and changes none, and leaves pending the word that the whole instruction
would store; its next step stores that word, whatever memory then holds, changes no other byte, and advances the counters.
That the schedule asks for the first half alone is the model's reading of R68 (log 7). -/
def Obligations.PartialStoreResults : Prop :=
  (∀ (s : State) (rt base : Reg) (offset : BitVec 16),
    let ea := s.effAddr base offset
    let bo := ea.toNat % 4
    s.mappedBytes (alignWord ea) 4 →
    Completes (.swl rt base offset) s (fun t =>
      (∀ j ≤ bo, t.mem.byteAt (ea - BitVec.ofNat 32 j) = (s.reg rt).extractLsb' (8 * (3 - j)) 8) ∧
      t.live.ea = alignWord ea ∧ OnlyChanges [.mem (alignWord ea) (bo + 1), .ea] s t) ∧
    Completes (.swr rt base offset) s (fun t =>
      (∀ j, bo + j ≤ 3 → t.mem.byteAt (ea + BitVec.ofNat 32 j) = (s.reg rt).extractLsb' (8 * j) 8) ∧
      t.live.ea = alignWord ea ∧ OnlyChanges [.mem ea (4 - bo), .ea] s t)) ∧
  (∀ (s u v : State) (i : Instr) (w a : Word) (rest : List Event),
    (∃ rt base offset, i = .swl rt base offset ∨ i = .swr rt base offset) →
    s.running → s.pendingStore = none → s.haltPc ≠ some s.live.pc → s.schedule = .runToStore s.tid :: rest →
    s.decode = .ok (⟨w, .instr i⟩, u) → (u.setReg 0 0).accessOf i = some (a, 4) → s.mappedBytes a 4 →
    exec i (u.setReg 0 0) = .next v →
    step s = .next { (u.setReg 0 0).setEa a with
      schedule := rest, pendingStore := some { addr := a, value := v.mem.wordAt a } }) ∧
  (∀ (s : State) (p : PendingStore), s.running → s.schedule = [] → s.pendingStore = some p → s.accessible p.addr 4 →
    ∃ t, step s = .next t ∧
      (∀ i < 4, t.mem.byteAt (p.addr + BitVec.ofNat 32 i) = p.value.extractLsb' (8 * i) 8) ∧
      (∀ a, 4 ≤ (a - p.addr).toNat → t.mem.byteAt a = s.mem.byteAt a) ∧
      t = { s with
        mem := t.mem, pendingStore := none
        live := { s.live with pc := s.live.npc, npc := s.live.nnpc, nnpc := s.live.nnpc + 4 } })

/-- R241, R243, R376: every load and store has `ea` in its `odeps` and writes it with the address it passes to memory; it
does so before the access, so one whose access faults leaves `ea` written, the fault recorded, and everything else, memory
included, unchanged. -/
def Obligations.AccessesWriteEa : Prop :=
  ∀ (s : State) (i : Instr) (a : Word) (n : Nat), s.accessOf i = some (a, n) →
    miscId 2 ∈ odepsOf i ∧ Completes i s (fun t => t.live.ea = a) ∧
    (∀ f, s.faultRecord = none → s.accessFault a n = some f →
      Completes i s (fun t => t.faultRecord = some f ∧ t.live.ea = a ∧ OnlyChanges [.ea, .faultRecord] s t)) ∧
    (s.faultRecord = none → s.accessFault a n = none → Completes i s (fun t => t.faultRecord = none))

/-- R263: for any address `a`, `lwr rt, 0(a)` then `lwl rt, 3(a)` leaves in `x[rt]` the little-endian word of bytes
`a .. a+3`, and `swr rt, 0(a)` then `swl rt, 3(a)` writes `x[rt]` to bytes `a .. a+3` and to no other byte; where `a` is a
multiple of 4 the second of each pair leaves the word unchanged. -/
def Obligations.PartialWordPairsCompose : Prop :=
  ∀ (s : State) (rt base : Reg) (offset : BitVec 16), offset.toInt + 3 < 2 ^ 15 →
    s.mappedBytes (alignWord (s.effAddr base offset)) 4 → s.mappedBytes (alignWord (s.effAddr base offset + 3)) 4 →
    let a := s.effAddr base offset
    (rt ≠ base →
      Completes (.lwr rt base offset) s (fun t => Completes (.lwl rt base (offset + 3)) t (fun u =>
        (∀ i < 4, (u.reg rt).extractLsb' (8 * i) 8 = s.mem.byteAt (a + BitVec.ofNat 32 i)) ∧
          (a.toNat % 4 = 0 → u.reg rt = t.reg rt) ∧ OnlyChanges [.x rt, .ea] s u))) ∧
    Completes (.swr rt base offset) s (fun t => Completes (.swl rt base (offset + 3)) t (fun u =>
      (∀ i < 4, u.mem.byteAt (a + BitVec.ofNat 32 i) = (s.reg rt).extractLsb' (8 * i) 8) ∧
        (a.toNat % 4 = 0 → ∀ b, u.mem.byteAt b = t.mem.byteAt b) ∧ OnlyChanges [.mem a 4, .ea] s u))

/-! ## Floating point -/

/-- R285 to R288: the control moves; `cfc1` moves only for FS = 31 and `ctc1` only for FS = 0, and any other FS does
nothing or faults, by CP1CTL_UNGATED. -/
def Obligations.ControlMoves : Prop :=
  ∀ (s : State) (rt fs : Reg),
    Completes (.mfc1 rt fs) s (fun t => t.reg rt = s.fw fs ∧ OnlyChanges [.x rt] s t) ∧
    Completes (.mtc1 rt fs) s (fun t => t.fw fs = s.reg rt ∧ OnlyChanges [.fw fs] s t) ∧
    Completes (.cfc1 rt 31) s (fun t => t.reg rt = s.live.fcsr ∧ OnlyChanges [.x rt] s t) ∧
    Completes (.ctc1 rt 0) s (fun t => t.live.fcsr = s.reg rt ∧ OnlyChanges [.fcsr] s t) ∧
    (s.params.cp1ctlUngated = .noop →
      (fs ≠ 31 → Completes (.cfc1 rt fs) s (OnlyChanges [] s)) ∧
      (fs ≠ 0 → Completes (.ctc1 rt fs) s (OnlyChanges [] s))) ∧
    (s.params.cp1ctlUngated = .fault → s.faultRecord = none →
      (fs ≠ 31 → Completes (.cfc1 rt fs) s (fun t =>
        t.faultRecord = some (.cp1ControlUngated s.live.pc "cfc1") ∧ OnlyChanges [.faultRecord] s t)) ∧
      (fs ≠ 0 → Completes (.ctc1 rt fs) s (fun t =>
        t.faultRecord = some (.cp1ControlUngated s.live.pc "ctc1") ∧ OnlyChanges [.faultRecord] s t)))

/-- R295 to R297, R303 to R305: `abs`, `mov` and `neg` are bit operations on the view: every bit below the sign bit is
copied, the sign bit cleared, copied or flipped, NaN patterns included. -/
def Obligations.SignBitOperations : Prop :=
  ∀ (s : State) (fd fs : Reg),
    let single (sign : Bool) (t : State) : Prop :=
      (∀ k < 31, (t.fw fd).getLsbD k = (s.fw fs).getLsbD k) ∧ (t.fw fd).getLsbD 31 = sign ∧
        OnlyChanges [.fw fd] s t
    let double (sign : Bool) (t : State) : Prop :=
      (∀ k < 63, (t.fl fd).getLsbD k = (s.fl fs).getLsbD k) ∧ (t.fl fd).getLsbD 63 = sign ∧
        OnlyChanges (pairParts fd) s t
    Completes (.absS fd fs) s (single false) ∧
    Completes (.movS fd fs) s (single ((s.fw fs).getLsbD 31)) ∧
    Completes (.negS fd fs) s (single (!(s.fw fs).getLsbD 31)) ∧
    Completes (.absD fd fs) s (double false) ∧
    Completes (.movD fd fs) s (double ((s.fl fs).getLsbD 63)) ∧
    Completes (.negD fd fs) s (double (!(s.fl fs).getLsbD 63))

/-- R281, R289 to R293, R298 to R301: under the default FP_ARITH, where both operands are finite and the exact result is not
zero, `add`, `sub`, `mul` and `div` write that result rounded once: the nearest value of the format, ties to even, or past
the finite range an infinity, with the result's sign in each case, a zero included. -/
def Obligations.ArithmeticRoundsToNearest : Prop :=
  ∀ (s : State) (fd fs ft : Reg) (a b : ℚ), s.params.fpArith = [] →
    (FloatFmt.single.value (s.fw fs).toNat = some a → FloatFmt.single.value (s.fw ft).toNat = some b →
      let writes (x : ℚ) (t : State) : Prop :=
        FloatFmt.single.Rounded x (t.fw fd).toNat ∧ OnlyChanges [.fw fd] s t
      (a + b ≠ 0 → Completes (.addS fd fs ft) s (writes (a + b))) ∧
      (a - b ≠ 0 → Completes (.subS fd fs ft) s (writes (a - b))) ∧
      (a * b ≠ 0 → Completes (.mulS fd fs ft) s (writes (a * b))) ∧
      (a / b ≠ 0 → Completes (.divS fd fs ft) s (writes (a / b)))) ∧
    (FloatFmt.double.value (s.fl fs).toNat = some a → FloatFmt.double.value (s.fl ft).toNat = some b →
      let writes (x : ℚ) (t : State) : Prop :=
        FloatFmt.double.Rounded x (t.fl fd).toNat ∧ OnlyChanges (pairParts fd) s t
      (a + b ≠ 0 → Completes (.addD fd fs ft) s (writes (a + b))) ∧
      (a - b ≠ 0 → Completes (.subD fd fs ft) s (writes (a - b))) ∧
      (a * b ≠ 0 → Completes (.mulD fd fs ft) s (writes (a * b))) ∧
      (a / b ≠ 0 → Completes (.divD fd fs ft) s (writes (a / b))))

/-- R281, R294, R302: under the default FP_ARITH, the square root of a positive finite value is the value of the format
nearest to it: the exact root lies on the result's side of the midpoint to every other value; `sqrt` of a zero is that
zero. -/
def Obligations.SquareRootRoundsToNearest : Prop :=
  ∀ (s : State) (fd fs : Reg) (x : ℚ), s.params.fpArith = [] →
    let nearestRoot (f : FloatFmt) (bits : Nat) : Prop :=
      ∃ r, f.value bits = some r ∧ 0 < r ∧
        ∀ other w, f.value other = some w → 0 ≤ w →
          (r < w → x ≤ ((r + w) / 2) ^ 2) ∧ (w < r → ((r + w) / 2) ^ 2 ≤ x)
    (FloatFmt.single.value (s.fw fs).toNat = some x →
      (0 < x → Completes (.sqrtS fd fs) s (fun t =>
        nearestRoot .single (t.fw fd).toNat ∧ OnlyChanges [.fw fd] s t)) ∧
      (x = 0 → Completes (.sqrtS fd fs) s (fun t => t.fw fd = s.fw fs ∧ OnlyChanges [.fw fd] s t))) ∧
    (FloatFmt.double.value (s.fl fs).toNat = some x →
      (0 < x → Completes (.sqrtD fd fs) s (fun t =>
        nearestRoot .double (t.fl fd).toNat ∧ OnlyChanges (pairParts fd) s t)) ∧
      (x = 0 → Completes (.sqrtD fd fs) s (fun t => t.fl fd = s.fl fs ∧ OnlyChanges (pairParts fd) s t)))

/-- R16, R281, R282, R284, R289, R319: whatever the operands and the parameters, an arithmetic instruction or a
conversion to floating point completes, raises no fault and changes only its destination view (and the model's count of
draws). A NaN operand, an invalid operation or the root of a negative value writes a NaN encoding, FP_NAN's where it
gives one; any other operands write FP_ARITH's result where it gives one. That the parameters are tables is the model's
choice (log 8). -/
def Obligations.ArithmeticAlwaysCompletes : Prop :=
  ∀ (s : State) (fd fs ft : Reg),
    let sn (i : Reg) : Prop := FloatFmt.single.isNaN (s.fw i).toNat
    let dn (i : Reg) : Prop := FloatFmt.double.isNaN (s.fl i).toNat
    let single (c : Config.FpCall) (nan : Prop) (t : State) : Prop :=
      (nan → FloatFmt.single.isNaN (t.fw fd).toNat) ∧
      (nan → ∀ v, s.params.fpNan.lookup c = some v → FloatFmt.single.isNaN (v.setWidth 32).toNat →
        t.fw fd = v.setWidth 32) ∧
      (¬nan → ∀ v, s.params.fpArith.lookup c = some v → t.fw fd = v.setWidth 32) ∧ OnlyChanges [.fw fd, .draws] s t
    let double (c : Config.FpCall) (nan : Prop) (t : State) : Prop :=
      (nan → FloatFmt.double.isNaN (t.fl fd).toNat) ∧
      (nan → ∀ v, s.params.fpNan.lookup c = some v → FloatFmt.double.isNaN v.toNat → t.fl fd = v) ∧
      (¬nan → ∀ v, s.params.fpArith.lookup c = some v → t.fl fd = v) ∧ OnlyChanges (.draws :: pairParts fd) s t
    let w (i : Reg) : DWord := (s.fw i).setWidth 64
    let su (i : Reg) : FloatVal := FloatFmt.single.unpack (s.fw i).toNat
    let du (i : Reg) : FloatVal := FloatFmt.double.unpack (s.fl i).toNat
    let zero (v : FloatVal) : Prop := v.rat? = some 0
    let negative (v : FloatVal) : Prop := v = .inf true ∨ ∃ x, v.rat? = some x ∧ x < 0
    let infinite (v : FloatVal) : Prop := ∃ n, v = .inf n
    let opposed (u v : FloatVal) : Prop := ∃ n, u = .inf n ∧ v = .inf (!n)
    let alike (u v : FloatVal) : Prop := ∃ n, u = .inf n ∧ v = .inf n
    let mulBad (u v : FloatVal) : Prop := zero u ∧ infinite v ∨ infinite u ∧ zero v
    let divBad (u v : FloatVal) : Prop := zero u ∧ zero v ∨ infinite u ∧ infinite v
    let s2 (op : Config.FpOp) : Config.FpCall := ⟨op, w fs, w ft⟩
    let d2 (op : Config.FpOp) : Config.FpCall := ⟨op, s.fl fs, s.fl ft⟩
    Completes (.addS fd fs ft) s (single (s2 .addS) (sn fs ∨ sn ft ∨ opposed (su fs) (su ft))) ∧
    Completes (.subS fd fs ft) s (single (s2 .subS) (sn fs ∨ sn ft ∨ alike (su fs) (su ft))) ∧
    Completes (.mulS fd fs ft) s (single (s2 .mulS) (sn fs ∨ sn ft ∨ mulBad (su fs) (su ft))) ∧
    Completes (.divS fd fs ft) s (single (s2 .divS) (sn fs ∨ sn ft ∨ divBad (su fs) (su ft))) ∧
    Completes (.sqrtS fd fs) s (single ⟨.sqrtS, w fs, 0⟩ (sn fs ∨ negative (su fs))) ∧
    Completes (.cvtSD fd fs) s (single ⟨.cvtSD, s.fl fs, 0⟩ (dn fs)) ∧
    Completes (.cvtSW fd fs) s (single ⟨.cvtSW, w fs, 0⟩ False) ∧
    Completes (.cvtSL fd fs) s (single ⟨.cvtSL, s.fl fs, 0⟩ False) ∧
    Completes (.addD fd fs ft) s (double (d2 .addD) (dn fs ∨ dn ft ∨ opposed (du fs) (du ft))) ∧
    Completes (.subD fd fs ft) s (double (d2 .subD) (dn fs ∨ dn ft ∨ alike (du fs) (du ft))) ∧
    Completes (.mulD fd fs ft) s (double (d2 .mulD) (dn fs ∨ dn ft ∨ mulBad (du fs) (du ft))) ∧
    Completes (.divD fd fs ft) s (double (d2 .divD) (dn fs ∨ dn ft ∨ divBad (du fs) (du ft))) ∧
    Completes (.sqrtD fd fs) s (double ⟨.sqrtD, s.fl fs, 0⟩ (dn fs ∨ negative (du fs))) ∧
    Completes (.cvtDS fd fs) s (double ⟨.cvtDS, w fs, 0⟩ (sn fs)) ∧
    Completes (.cvtDW fd fs) s (double ⟨.cvtDW, w fs, 0⟩ False) ∧
    Completes (.cvtDL fd fs) s (double ⟨.cvtDL, s.fl fs, 0⟩ False)

/-- R281, R290 to R294, R298 to R302: infinities and zeros, in both formats, under the default FP_ARITH. An infinite operand
gives what IEEE 754 gives; a finite value over a zero is an infinity and a zero over one a zero, each with the exclusive or
of the signs, as a product of a zero has; an exact zero sum is +0 unless both addends are -0. (Where IEEE 754 gives a NaN,
O35 says so.) -/
def Obligations.InfinitiesAndZeros : Prop :=
  ∀ (s : State) (fd fs ft : Reg) (x : ℚ) (n k : Bool), s.params.fpArith = [] →
    let forms (f : FloatFmt) (bits : Reg → Nat) (plus minus times divided root : Instr) (out : State → Nat) (parts : List Part) :
        Prop :=
      let val (i : Reg) : FloatVal := f.unpack (bits i)
      let gives (r : Nat) (t : State) : Prop := out t = r ∧ OnlyChanges parts s t
      let inf (n : Bool) : Nat := f.infinity n
      let zero (n : Bool) : Nat := f.signed n 0
      let sign (i : Reg) : Bool := bits i / f.signBit % 2 == 1
      (val fs = .inf n → (val ft).rat? = some x →
        Completes plus s (gives (inf n)) ∧ Completes minus s (gives (inf n)) ∧
        Completes divided s (gives (inf (n != sign ft))) ∧ (x ≠ 0 → Completes times s (gives (inf (n != sign ft))))) ∧
      ((val fs).rat? = some x → val ft = .inf n →
        Completes plus s (gives (inf n)) ∧ Completes minus s (gives (inf (!n))) ∧
        Completes divided s (gives (zero (sign fs != n))) ∧ (x ≠ 0 → Completes times s (gives (inf (sign fs != n))))) ∧
      (val fs = .inf n → val ft = .inf k →
        (n = k → Completes plus s (gives (inf n))) ∧ (n ≠ k → Completes minus s (gives (inf n))) ∧
        Completes times s (gives (inf (n != k)))) ∧
      ((val fs).rat? = some x → x ≠ 0 → (val ft).rat? = some 0 →
        Completes divided s (gives (inf (sign fs != sign ft))) ∧ Completes times s (gives (zero (sign fs != sign ft)))) ∧
      ((val fs).rat? = some 0 → (val ft).rat? = some x → x ≠ 0 →
        Completes divided s (gives (zero (sign fs != sign ft))) ∧ Completes times s (gives (zero (sign fs != sign ft)))) ∧
      (bits fs = zero n → bits ft = zero k →
        Completes plus s (gives (zero (n && k))) ∧ Completes minus s (gives (zero (n && !k))) ∧
        Completes times s (gives (zero (n != k)))) ∧
      ((val fs).rat? = some x → x ≠ 0 →
        ((val ft).rat? = some (-x) → Completes plus s (gives (zero false))) ∧
        ((val ft).rat? = some x → Completes minus s (gives (zero false)))) ∧
      (val fs = .inf false → Completes root s (gives (inf false)))
    forms .single (fun i => (s.fw i).toNat) (.addS fd fs ft) (.subS fd fs ft) (.mulS fd fs ft) (.divS fd fs ft)
      (.sqrtS fd fs) (fun t => (t.fw fd).toNat) [.fw fd] ∧
    forms .double (fun i => (s.fl i).toNat) (.addD fd fs ft) (.subD fd fs ft) (.mulD fd fs ft) (.divD fd fs ft)
      (.sqrtD fd fs) (fun t => (t.fl fd).toNat) (pairParts fd)

/-- R281, R306, R309, R312 to R315: the conversions to floating point, under the default FP_ARITH: `cvt.d.s` and `cvt.d.w`
exact, the others their value or integer rounded once to nearest, ties to even, past the finite range an infinity; an
infinity stays one, and every result, a zero too, has the sign of what it converts. -/
def Obligations.ConversionsToFloat : Prop :=
  ∀ (s : State) (fd fs : Reg) (x : ℚ) (n : Bool), s.params.fpArith = [] →
    let toSingle (i : Instr) (P : Nat → Prop) : Prop :=
      Completes i s (fun t => P (t.fw fd).toNat ∧ OnlyChanges [.fw fd] s t)
    let toDouble (i : Instr) (P : Nat → Prop) : Prop :=
      Completes i s (fun t => P (t.fl fd).toNat ∧ OnlyChanges (pairParts fd) s t)
    let single := FloatFmt.single
    let double := FloatFmt.double
    (single.value (s.fw fs).toNat = some x → toDouble (.cvtDS fd fs) (fun r =>
      double.value r = some x ∧ (double.negative r ↔ single.negative (s.fw fs).toNat))) ∧
    (single.unpack (s.fw fs).toNat = .inf n → toDouble (.cvtDS fd fs) (fun r => r = double.infinity n)) ∧
    (double.value (s.fl fs).toNat = some x → x ≠ 0 → toSingle (.cvtSD fd fs) (single.Rounded x)) ∧
    ((s.fl fs).toNat = double.signed n 0 → toSingle (.cvtSD fd fs) (fun r => r = single.signed n 0)) ∧
    (double.unpack (s.fl fs).toNat = .inf n → toSingle (.cvtSD fd fs) (fun r => r = single.infinity n)) ∧
    ((s.fw fs).toInt ≠ 0 → toSingle (.cvtSW fd fs) (single.Rounded (s.fw fs).toInt)) ∧
    ((s.fw fs).toInt = 0 → toSingle (.cvtSW fd fs) (fun r => r = 0)) ∧
    toDouble (.cvtDW fd fs) (fun r =>
      double.value r = some ((s.fw fs).toInt : ℚ) ∧ (double.negative r ↔ (s.fw fs).toInt < 0)) ∧
    ((s.fl fs).toInt ≠ 0 → toSingle (.cvtSL fd fs) (single.Rounded (s.fl fs).toInt) ∧
      toDouble (.cvtDL fd fs) (double.Rounded (s.fl fs).toInt)) ∧
    ((s.fl fs).toInt = 0 → toSingle (.cvtSL fd fs) (fun r => r = 0) ∧ toDouble (.cvtDL fd fs) (fun r => r = 0))

/-- R283, R307, R308, R310, R311: a conversion to an integer of a finite, integral value in range writes that integer; of
any other operand it writes FP_TO_INT's result where it gives one, and completes all the same, changing only its
destination (and the model's count of draws). That the parameter is a table is the model's choice (log 8). -/
def Obligations.ConversionsToInteger : Prop :=
  ∀ (s : State) (fd fs : Reg) (k : Int),
    let word (t : State) : Prop := (t.fw fd).toInt = k ∧ OnlyChanges [.fw fd] s t
    let long (t : State) : Prop := (t.fl fd).toInt = k ∧ OnlyChanges (pairParts fd) s t
    (FloatFmt.single.value (s.fw fs).toNat = some (k : ℚ) →
      (-2 ^ 31 ≤ k ∧ k < 2 ^ 31 → Completes (.cvtWS fd fs) s word) ∧
      (-2 ^ 63 ≤ k ∧ k < 2 ^ 63 → Completes (.cvtLS fd fs) s long)) ∧
    (FloatFmt.double.value (s.fl fs).toNat = some (k : ℚ) →
      (-2 ^ 31 ≤ k ∧ k < 2 ^ 31 → Completes (.cvtWD fd fs) s word) ∧
      (-2 ^ 63 ≤ k ∧ k < 2 ^ 63 → Completes (.cvtLD fd fs) s long)) ∧
    let exact (f : FloatFmt) (bits width : Nat) : Prop :=
      ∃ k : Int, f.value bits = some (k : ℚ) ∧ -2 ^ (width - 1) ≤ k ∧ k < 2 ^ (width - 1)
    let anyWord (c : Config.FpCall) (ok : Prop) (t : State) : Prop :=
      (¬ok → ∀ v, s.params.fpToInt.lookup c = some v → t.fw fd = v.setWidth 32) ∧ OnlyChanges [.fw fd, .draws] s t
    let anyLong (c : Config.FpCall) (ok : Prop) (t : State) : Prop :=
      (¬ok → ∀ v, s.params.fpToInt.lookup c = some v → t.fl fd = v) ∧ OnlyChanges (.draws :: pairParts fd) s t
    let w : DWord := (s.fw fs).setWidth 64
    Completes (.cvtWS fd fs) s (anyWord ⟨.cvtWS, w, 0⟩ (exact .single (s.fw fs).toNat 32)) ∧
    Completes (.cvtWD fd fs) s (anyWord ⟨.cvtWD, s.fl fs, 0⟩ (exact .double (s.fl fs).toNat 32)) ∧
    Completes (.cvtLS fd fs) s (anyLong ⟨.cvtLS, w, 0⟩ (exact .single (s.fw fs).toNat 64)) ∧
    Completes (.cvtLD fd fs) s (anyLong ⟨.cvtLD, s.fl fs, 0⟩ (exact .double (s.fl fs).toNat 64))

/-- R316 to R318: each of the 32 compares sets FCC(cc) exactly when its COND asks for the relation that holds (less,
equal, unordered), and changes no other bit of fcsr and nothing else. -/
def Obligations.CompareResults : Prop :=
  ∀ (s : State) (i : Instr) (f : FloatFmt) (cond : Nat) (cc : BitVec 3) (fs ft : Reg),
    compareOf i = some (f, cond, cc, fs, ft) →
    let bit := if cc = 0 then 23 else 24 + cc.toNat
    Completes i s (fun t =>
      (t.live.fcsr.getLsbD bit = true ↔ f.conditionHolds cond (s.viewOf f fs) (s.viewOf f ft)) ∧
      (∀ k < 32, k ≠ bit → t.live.fcsr.getLsbD k = s.live.fcsr.getLsbD k) ∧ OnlyChanges [.fcsr] s t)

/-! ## System instructions, markers -/

/-- R62, R71, R341, R391, R392: `syscall`, whatever its CODE. By the default host table, that is by `x[2]`: `exit` and
`exit_group` end the run with `x[4]`; `write` appends the bytes from `x[5]` to stream 1 or 2, or answers error 9; any
other number is refused by the host. By a given answer of SYSCALL_EFFECT: `Exit` and `Refuse` end the run; `Continue`
writes its registers, bytes, streams and mapping, and nothing else; an access of the host that faults leaves only the
fault, as a `write` does whose first unmapped byte is `i`. That answers stand in a list, the last value given to a
register or byte standing, is the model's choice (logs 10, 14), as are that the accesses are checked against MAPPED
before the answer changes it (log 26) and that a faulting `write` leaves the stream as it was (log 11). -/
def Obligations.SystemCalls : Prop :=
  (∀ (s : State) (code : BitVec 20), s.hostAnswers = [] →
    (s.reg 2 = 4001#32 ∨ s.reg 2 = 4246#32 → Completes (.syscall code) s (fun t =>
      t.runEnd = some (.exited (s.reg 4)) ∧ OnlyChanges [.runEnd] s t)) ∧
    (s.reg 2 = 4004#32 → s.reg 4 ≠ 1 → s.reg 4 ≠ 2 → Completes (.syscall code) s (fun t =>
      t.reg 2 = 9 ∧ t.reg 7 = 1 ∧ OnlyChanges [.x 2, .x 7] s t)) ∧
    (s.reg 2 = 4004#32 → (∀ i < (s.reg 6).toNat, s.isMapped (s.reg 5 + BitVec.ofNat 32 i) = true) →
      let bytes := (List.range (s.reg 6).toNat).map fun i => s.mem.byteAt (s.reg 5 + BitVec.ofNat 32 i)
      (s.reg 4 = 1 → Completes (.syscall code) s (fun t => t.hostOut1 = s.hostOut1 ++ bytes ∧ t.reg 2 = s.reg 6 ∧
        t.reg 7 = 0 ∧ OnlyChanges [.x 2, .x 7, .hostOut1] s t)) ∧
      (s.reg 4 = 2 → Completes (.syscall code) s (fun t => t.hostOut2 = s.hostOut2 ++ bytes ∧ t.reg 2 = s.reg 6 ∧
        t.reg 7 = 0 ∧ OnlyChanges [.x 2, .x 7, .hostOut2] s t))) ∧
    (s.reg 2 ≠ 4001#32 → s.reg 2 ≠ 4246#32 → s.reg 2 ≠ 4004#32 → Completes (.syscall code) s (fun t =>
      t.runEnd = some (.hostRefused (s.reg 2)) ∧ OnlyChanges [.runEnd] s t)) ∧
    (∀ i, s.faultRecord = none → s.reg 2 = 4004#32 → (s.reg 4 = 1 ∨ s.reg 4 = 2) → i < (s.reg 6).toNat →
      s.isMapped (s.reg 5 + BitVec.ofNat 32 i) = false →
      (∀ j < i, s.isMapped (s.reg 5 + BitVec.ofNat 32 j) = true) →
      Completes (.syscall code) s (fun t =>
        t.faultRecord = some (.dataUnmapped s.live.pc (s.reg 5 + BitVec.ofNat 32 i)) ∧
          OnlyChanges [.faultRecord] s t))) ∧
  (∀ (s : State) (code : BitVec 20) (answer : HostAnswer) (rest : List HostAnswer), s.hostAnswers = answer :: rest →
    (∀ status, answer = .exit status → Completes (.syscall code) s (fun t =>
      t.runEnd = some (.exited status) ∧ OnlyChanges [.runEnd] s t)) ∧
    (answer = .refuse → Completes (.syscall code) s (fun t =>
      t.runEnd = some (.hostRefused (s.reg 2)) ∧ OnlyChanges [.runEnd] s t)) ∧
    (∀ e, answer = .proceed e → (∀ p ∈ e.accesses, s.accessFault p.1 p.2 = none) → Completes (.syscall code) s (fun t =>
      (∀ n v, LastGiven e.regs n v → t.live.getNamed n = v) ∧
      (∀ a v, LastGiven e.memory a v → t.mem.byteAt a = v) ∧
      (∀ a, NotGiven e.memory a → t.mem.byteAt a = s.mem.byteAt a) ∧
      t.hostOut1 = s.hostOut1 ++ e.out1 ∧ t.hostOut2 = s.hostOut2 ++ e.out2 ∧ t.mapped = e.mapped.getD s.mapped ∧
      t.hostAnswers = rest ∧
      OnlyChanges (.mem 0 (2 ^ 32) :: .hostOut1 :: .hostOut2 :: .mapped :: .hostAnswers :: e.regs.map fun p => p.1.part)
        s t)) ∧
    (∀ e pre p post f, answer = .proceed e → e.accesses = pre ++ p :: post → s.faultRecord = none →
      (∀ q ∈ pre, s.accessFault q.1 q.2 = none) → s.accessFault p.1 p.2 = some f →
      Completes (.syscall code) s (fun t => t.faultRecord = some f ∧ OnlyChanges [.faultRecord] s t)))

/-- R342 to R344: `nop` changes nothing, for every SA; `break` faults BREAKPOINT with its CODE; `sync`, for every STYPE,
faults UNIMPLEMENTED or does nothing, by SYNC_MODE. -/
def Obligations.NopBreakSync : Prop :=
  ∀ (s : State) (sa stype : BitVec 5) (code : BitVec 20),
    Completes (.nop sa) s (fun t => t = s) ∧
    (s.params.syncMode = .noop → Completes (.sync stype) s (fun t => t = s)) ∧
    (s.faultRecord = none →
      Completes (.brk code) s (fun t =>
        t.faultRecord = some (.breakpoint s.live.pc code) ∧ OnlyChanges [.faultRecord] s t) ∧
      (s.params.syncMode = .fault → Completes (.sync stype) s (fun t =>
        t.faultRecord = some (.unimplemented s.live.pc .generic "sync") ∧ OnlyChanges [.faultRecord] s t)))

/-- R345 to R357: the twelve traps. Under TRAP_MODE = conditional a trap whose condition holds faults TRAP with its
mnemonic and one whose condition does not hold does nothing; under unimplemented each faults UNIMPLEMENTED. -/
def Obligations.Traps : Prop :=
  ∀ (s : State) (rs rt : Reg) (code : BitVec 10) (imm : BitVec 16), s.faultRecord = none →
    let traps (i : Instr) (mnemonic : String) (cond : Prop) : Prop :=
      (s.params.trapMode = .conditional → cond → Completes i s (fun t =>
        t.faultRecord = some (.trap s.live.pc mnemonic) ∧ OnlyChanges [.faultRecord] s t)) ∧
      (s.params.trapMode = .conditional → ¬cond → Completes i s (fun t => t = s)) ∧
      (s.params.trapMode = .unimplemented → Completes i s (fun t =>
        t.faultRecord = some (.unimplemented s.live.pc .generic mnemonic) ∧ OnlyChanges [.faultRecord] s t))
    traps (.tge rs rt code) "tge" ((s.reg rt).toInt ≤ (s.reg rs).toInt) ∧
    traps (.tgeu rs rt code) "tgeu" ((s.reg rt).toNat ≤ (s.reg rs).toNat) ∧
    traps (.tlt rs rt code) "tlt" ((s.reg rs).toInt < (s.reg rt).toInt) ∧
    traps (.tltu rs rt code) "tltu" ((s.reg rs).toNat < (s.reg rt).toNat) ∧
    traps (.teq rs rt code) "teq" (s.reg rs = s.reg rt) ∧
    traps (.tne rs rt code) "tne" (s.reg rs ≠ s.reg rt) ∧
    traps (.tgei rs imm) "tgei" (imm.toInt ≤ (s.reg rs).toInt) ∧
    traps (.tgeiu rs imm) "tgeiu" (imm.toInt % 2 ^ 32 ≤ ((s.reg rs).toNat : Int)) ∧
    traps (.tlti rs imm) "tlti" ((s.reg rs).toInt < imm.toInt) ∧
    traps (.tltiu rs imm) "tltiu" (((s.reg rs).toNat : Int) < imm.toInt % 2 ^ 32) ∧
    traps (.teqi rs imm) "teqi" ((s.reg rs).toInt = imm.toInt) ∧
    traps (.tnei rs imm) "tnei" ((s.reg rs).toInt ≠ imm.toInt)

/-- R105, R359, R360: every marker and sentinel, in every state, faults UNIMPLEMENTED with its group and mnemonic and
changes nothing else. -/
def Obligations.MarkersAreUnimplemented : Prop :=
  ∀ (s : State) (i : Instr) (g : MarkerGroup), markerGroupOf i = some g → s.faultRecord = none →
    Completes i s (fun t =>
      t.faultRecord = some (.unimplemented s.live.pc g (mnemonicOf i)) ∧ OnlyChanges [.faultRecord] s t)

/-! ## Rules over all instructions -/

/-- R25, R46, R128, R341: `odeps` is a frame: an instruction changes no general register, float word, `lo`, `hi`, `ea` or
`fcsr` that its `odeps` do not name. (A host answer is taken to write its results to `x[2]` and `x[7]`, as D25 has it.) -/
def Obligations.OdepsNameEveryRegisterWritten : Prop :=
  ∀ (s t : State) (i : Instr), exec i s = .next t →
    (∀ e rest, s.hostAnswers = .proceed e :: rest → ∀ p ∈ e.regs, p.1 = .x 2 ∨ p.1 = .x 7) →
    (∀ r, intId r ∉ odepsOf i → t.reg r = s.reg r) ∧ (∀ r, floatId r ∉ odepsOf i → t.fw r = s.fw r) ∧
    (miscId 0 ∉ odepsOf i → t.live.lo = s.live.lo) ∧ (miscId 1 ∉ odepsOf i → t.live.hi = s.live.hi) ∧
    (miscId 2 ∉ odepsOf i → t.live.ea = s.live.ea) ∧ (miscId 3 ∉ odepsOf i → t.live.fcsr = s.live.fcsr)

/-- R67, R125, R127, R264: only an instruction with STORE in its flags changes a byte of memory, but for a `syscall`
that the host answers; only one with CONTROL changes `npc` or `nnpc`, none changes `pc`, and only `add`, `addi`, `sub`
warn. -/
def Obligations.FlagsBoundTheEffect : Prop :=
  ∀ (s t : State) (i : Instr), exec i s = .next t →
    (StaticFlag.store ∉ flagsOf i → (mnemonicOf i ≠ "syscall" ∨ s.hostAnswers = []) → ∀ a, t.mem.byteAt a = s.mem.byteAt a) ∧
    (StaticFlag.control ∉ flagsOf i → t.live.npc = s.live.npc ∧ t.live.nnpc = s.live.nnpc) ∧
    t.live.pc = s.live.pc ∧
    (mnemonicOf i ≠ "add" → mnemonicOf i ≠ "addi" → mnemonicOf i ≠ "sub" → t.warnings = s.warnings)

/-- R205: where a control instruction raises no fault, an unconditional one leaves `target_pc` in `nnpc`, and a conditional
one leaves in `nnpc` its `target_pc`, or what it was, or (a likely branch not taken) 4 more. -/
def Obligations.TargetPcIsWhereControlGoes : Prop :=
  ∀ (s t : State) (i : Instr) (a : Word), exec i s = .next t → t.faultRecord = none →
    leafTargetPc s (.instr i) = some a →
    (StaticFlag.uncond ∈ flagsOf i → t.live.nnpc = a) ∧
    (StaticFlag.cond ∈ flagsOf i →
      t.live.nnpc = a ∨ t.live.nnpc = s.live.nnpc ∨ t.live.nnpc = s.live.nnpc + 4)

/-- R41: no instruction reads `is_speculative` or the shadow copy: with any other values there it does the same. -/
def Obligations.SpeculationIsInvisible : Prop :=
  ∀ (s t : State) (i : Instr) (b : Bool) (r : Regs), exec i s = .next t →
    exec i { s with isSpeculative := b, shadow := r } = .next { t with isSpeculative := b, shadow := r }

/-! ## The step -/

/-- R28, R66, R101, R340: with no schedule, a step of a running thread between instructions runs the instruction whose
bytes stand at `pc`: the word is decoded and cached, cell 0 zeroed, the instruction executed, and the counters advance
unless the run stopped. That a host refusal is such a stop is the model's choice (log 21). -/
def Obligations.StepRunsTheDecodedInstruction : Prop :=
  ∀ (s t : State) (i : Instr), s.running → s.schedule = [] → s.pendingStore = none →
    s.haltPc ≠ some s.live.pc → s.cacheLookup s.live.pc = none → s.fetchFault s.live.pc = none →
    decodeWord (s.mem.wordAt s.live.pc) = .instr i →
    exec i ((s.cacheInsert ⟨s.core, s.live.pc, ⟨s.mem.wordAt s.live.pc, .instr i⟩⟩).setReg 0 0) = .next t →
    (t.running → step s = .next (t.setLive { t.live with pc := t.live.npc, npc := t.live.nnpc, nnpc := t.live.nnpc + 4 })) ∧
    (¬t.running → step s = .next t)

/-- R42, R77, R413: where the decode cache holds `pc`, the step runs the cached instruction, whatever the bytes at `pc` and
the mapping are. -/
def Obligations.StepRunsTheCachedInstruction : Prop :=
  ∀ (s t : State) (i : Instr) (w : Word), s.running → s.schedule = [] → s.pendingStore = none →
    s.haltPc ≠ some s.live.pc → s.cacheLookup s.live.pc = some ⟨w, .instr i⟩ → exec i (s.setReg 0 0) = .next t → t.running →
    step s = .next (t.setLive { t.live with pc := t.live.npc, npc := t.live.nnpc, nnpc := t.live.nnpc + 4 })

/-- R66, R358, R373, R375: a step that cannot fetch faults FETCH_MISALIGNED or FETCH_UNMAPPED and changes nothing but
the record; one that fetches an Unknown word faults UNKNOWN_INSTRUCTION with it, after the decode is cached and cell 0
zeroed. -/
def Obligations.StepFaults : Prop :=
  ∀ s : State, s.running → s.schedule = [] → s.pendingStore = none → s.haltPc ≠ some s.live.pc →
    s.cacheLookup s.live.pc = none →
    (s.live.pc.toNat % 4 ≠ 0 →
      step s = .next { s with faultRecord := some (.fetchMisaligned s.live.pc) }) ∧
    (s.live.pc.toNat % 4 = 0 → ¬s.mappedBytes s.live.pc 4 →
      step s = .next { s with faultRecord := some (.fetchUnmapped s.live.pc) }) ∧
    (s.accessible s.live.pc 4 → decodeWord (s.mem.wordAt s.live.pc) = .unknown →
      ∃ t, step s = .next t ∧
        t.faultRecord = some (.unknownInstruction s.live.pc (s.mem.wordAt s.live.pc)) ∧ t.reg 0 = 0 ∧
        t.cacheLookup s.live.pc = some (decodeStatic (s.mem.wordAt s.live.pc)) ∧
        OnlyChanges [.x 0, .faultRecord] s { t with decodeCache := s.decodeCache })

/-- R28, R200, R410: after a step that did not stop the run, `pc` is the old `npc`, unless the instruction was `bc1fl` or
`bc1tl`, which may skip it; so the instruction after a branch or jump executes before its target. -/
def Obligations.DelaySlotExecutesNext : Prop :=
  ∀ (s t u : State) (inst : StaticInst), s.running → s.schedule = [] → step s = .next t → t.running →
    s.decode = .ok (inst, u) → leafMnemonic inst.leaf ≠ "bc1fl" → leafMnemonic inst.leaf ≠ "bc1tl" →
    t.live.pc = s.live.npc ∧ t.live.nnpc = t.live.npc + 4

/-- R370, R375, R376, R387: precision. A step of a running thread that leaves a fault leaves `pc`, `npc`, `nnpc`,
memory, the other registers, the warning log and the host streams as they were, but for `ea` and cell 0; the record's pc
is `pc`. That a host `write` that faults part way leaves the streams as they were is the model's choice (log 11). -/
def Obligations.FaultsArePrecise : Prop :=
  ∀ (s t : State) (f : Fault), s.running → s.schedule = [] → step s = .next t → t.faultRecord = some f →
    f.pc = s.live.pc ∧ OnlyChanges [.x 0, .ea, .faultRecord] s { t with decodeCache := s.decodeCache }

/-- R370, R391: no step is taken after a fault, an exit or a host refusal, nor by a thread at the halt address; a step that
raises a fault is followed by that fault. What a step asked of an ended run answers (`fault` with the record, refused
`runEnded`) is the model's, read from R370 and R391 (logs 1, 15): they say only that no step is taken. -/
def Obligations.EndedRunTakesNoStep : Prop :=
  (∀ (s : State) (f : Fault), s.faultRecord = some f → s.runEnd = none → step s = .fault f) ∧
  (∀ (s : State) (e : RunEnd), s.runEnd = some e → s.faultRecord = none → step s = .refused (.runEnded e)) ∧
  (∀ s t : State, step s = .next t → s.running) ∧
  (∀ s : State, s.running → s.schedule = [] → s.pendingStore = none → s.haltPc = some s.live.pc →
    step s = .refused (.runEnded .halted))

/-- R23, R340, R416: a value left in cell 0 is invisible to execution: a whole step that gets past its fetch gives the
same state whatever cell 0 held. -/
def Obligations.CellZeroIsInvisible : Prop :=
  ∀ (s : State) (v : Word), s.running → s.schedule = [] → s.pendingStore = none → (∀ f, s.decode ≠ .error f) →
    step (s.setReg 0 v) = step s

/-- R41, R71, R384: a step of one thread, with a schedule or without, leaves every other thread as it was, waiting, and no
thread comes or goes; it leaves its own core, and but for a `setSpeculative` its mode and its snapshot, the parameters and
the halt address, and with no host answer the mapping, as they are; and it uses up the request it serves. -/
def Obligations.StepTouchesOneThread : Prop :=
  ∀ s t : State, step s = .next t → (s.threads.map Thread.tid).Nodup →
    t.tid = s.acting ∧ (∀ o ∈ s.threads, o.tid ≠ s.acting → o ∈ t.others) ∧
    (∀ n, n ∈ t.threads.map Thread.tid ↔ n ∈ s.threads.map Thread.tid) ∧ t.others.length = s.others.length ∧
    (∀ o ∈ s.threads, o.tid = s.acting →
      t.core = o.core ∧ ((∀ n b rest, s.schedule ≠ .setSpeculative n b :: rest) →
        t.isSpeculative = o.isSpeculative ∧ t.shadow = o.shadow)) ∧
    t.params = s.params ∧ t.haltPc = s.haltPc ∧ t.schedule = s.schedule.tail ∧
    (s.hostAnswers = [] → t.mapped = s.mapped)

/-- R8, R10, R38 to R40, R68, R384, R390: a request names a thread. For one that is there it is served in that thread,
with its registers, core, mode, snapshot and pending store, while the thread switched out waits unchanged and the rest
of the machine is as it was: a `run` steps it, a `runToStore` steps it up to its store, a `setSpeculative` sets its mode
between instructions, a `decode` decodes in its core's cache. That the last two are steps of the machine, served at the
halt address too, a `decode` within a `swl` or `swr` as well, that a mode is not set within an instruction, and that a
thread which is not there is refused by name is the model's choice (logs 16, 17, 22, 24, 25). -/
def Obligations.ScheduleSelectsTheThread : Prop :=
  ∀ (s : State) (tid : Nat) (rest : List Event), s.running → (s.threads.map Thread.tid).Nodup →
    (∀ o ∈ s.threads, o.tid = tid → ∃ u, s.selectThread tid = some u ∧ u.currentThread = o ∧
      (∀ q ∈ s.threads, q.tid ≠ tid → q ∈ u.others) ∧ u.others.length = s.others.length ∧
      { u with
        tid := s.tid, core := s.core, live := s.live, isSpeculative := s.isSpeculative, shadow := s.shadow
        pendingStore := s.pendingStore, others := s.others } = s ∧
      (s.schedule = .run tid :: rest → step s = stepThread (u.setSchedule rest)) ∧
      (s.schedule = .runToStore tid :: rest → step s = stepToStore (u.setSchedule rest)) ∧
      (∀ b, s.schedule = .setSpeculative tid b :: rest →
        (o.pendingStore = none → step s = .next ((u.setSchedule rest).setSpeculative b)) ∧
        (o.pendingStore ≠ none → step s = .refused (.midInstruction tid))) ∧
      (∀ pc, s.schedule = .decode tid pc :: rest →
        (∀ inst t, (u.setSchedule rest).decodeAt pc = .ok (inst, t) → step s = .next t) ∧
        (∀ f, (u.setSchedule rest).decodeAt pc = .error f →
          step s = .next { u.setSchedule rest with faultRecord := some f }))) ∧
    ((∀ o ∈ s.threads, o.tid ≠ tid) → ∀ e, e.thread = tid → s.schedule = e :: rest →
      step s = .refused (.noSuchThread tid))

/-- R40: setting the mode it already has does nothing: no checkpoint moves, nothing is restored. -/
def Obligations.RepeatedSetSpeculativeIsNoOp : Prop :=
  ∀ (s : State) (b : Bool), s.isSpeculative = b → s.setSpeculative b = s

/-- R38, R39, R41, R79: entering speculative mode takes a snapshot of every register and counter; leaving it after any
number of steps puts every one back, while memory, the logs and the streams keep what the steps did. -/
def Obligations.SpeculationRestoresTheRegisters : Prop :=
  ∀ (n : Nat) (s t : State), s.isSpeculative = false →
    s.setSpeculative true = { s with shadow := s.live, isSpeculative := true } ∧
    (s.schedule = [] → Sys2Proof.core.run n (s.setSpeculative true) = .next t →
      (t.setSpeculative false).live = s.live ∧ (t.setSpeculative false).isSpeculative = false ∧
      (t.setSpeculative false).shadow = t.shadow ∧ (t.setSpeculative false).mem = t.mem ∧
      (t.setSpeculative false).warnings = t.warnings ∧ (t.setSpeculative false).decodeCache = t.decodeCache ∧
      (t.setSpeculative false).hostOut1 = t.hostOut1 ∧ (t.setSpeculative false).hostOut2 = t.hostOut2)

/-- R27, R42, R63, R101: every step keeps the invariant: memory in canonical form, the decode cache as R42 says, `nnpc` four
past `npc` in every thread and restorable snapshot, distinct thread names, one end of the run at most. -/
def Obligations.StepKeepsInv : Prop :=
  ∀ s t : State, s.Inv → step s = .next t → t.Inv

/-- The invariant holds after reset. -/
def Obligations.ResetInv : Prop := State.reset.Inv

end
end

