-- ==== Sys2Proof/Laws/Decode.lean ====
section
/-! SUPPORT. The fields of the words the encoder builds: an extractor gives back the field that was put in. -/

namespace Sys2Proof

@[simp] theorem Field.opcode_rWord (op : BitVec 6) (rs rt rd : Reg) (sa : BitVec 5) (func : BitVec 6) :
    Field.opcode (rWord op rs rt rd sa func) = op := by
  apply BitVec.eq_of_getLsbD_eq
  intro i hi
  simp only [Field.opcode, rWord, BitVec.getLsbD_extractLsb', BitVec.getLsbD_append]
  interval_cases i <;> simp

@[simp] theorem Field.rs_rWord (op : BitVec 6) (rs rt rd : Reg) (sa : BitVec 5) (func : BitVec 6) :
    Field.rs (rWord op rs rt rd sa func) = rs := by
  apply BitVec.eq_of_getLsbD_eq
  intro i hi
  simp only [Field.rs, rWord, BitVec.getLsbD_extractLsb', BitVec.getLsbD_append]
  interval_cases i <;> simp

@[simp] theorem Field.rt_rWord (op : BitVec 6) (rs rt rd : Reg) (sa : BitVec 5) (func : BitVec 6) :
    Field.rt (rWord op rs rt rd sa func) = rt := by
  apply BitVec.eq_of_getLsbD_eq
  intro i hi
  simp only [Field.rt, rWord, BitVec.getLsbD_extractLsb', BitVec.getLsbD_append]
  interval_cases i <;> simp

@[simp] theorem Field.rd_rWord (op : BitVec 6) (rs rt rd : Reg) (sa : BitVec 5) (func : BitVec 6) :
    Field.rd (rWord op rs rt rd sa func) = rd := by
  apply BitVec.eq_of_getLsbD_eq
  intro i hi
  simp only [Field.rd, rWord, BitVec.getLsbD_extractLsb', BitVec.getLsbD_append]
  interval_cases i <;> simp

@[simp] theorem Field.sa_rWord (op : BitVec 6) (rs rt rd : Reg) (sa : BitVec 5) (func : BitVec 6) :
    Field.sa (rWord op rs rt rd sa func) = sa := by
  apply BitVec.eq_of_getLsbD_eq
  intro i hi
  simp only [Field.sa, rWord, BitVec.getLsbD_extractLsb', BitVec.getLsbD_append]
  interval_cases i <;> simp

@[simp] theorem Field.func_rWord (op : BitVec 6) (rs rt rd : Reg) (sa : BitVec 5) (func : BitVec 6) :
    Field.func (rWord op rs rt rd sa func) = func := by
  apply BitVec.eq_of_getLsbD_eq
  intro i hi
  simp only [Field.func, rWord, BitVec.getLsbD_extractLsb', BitVec.getLsbD_append]
  interval_cases i <;> simp

@[simp] theorem Field.opcode_iWord (op : BitVec 6) (rs rt : Reg) (imm : BitVec 16) :
    Field.opcode (iWord op rs rt imm) = op := by
  apply BitVec.eq_of_getLsbD_eq
  intro i hi
  simp only [Field.opcode, iWord, BitVec.getLsbD_extractLsb', BitVec.getLsbD_append]
  interval_cases i <;> simp

@[simp] theorem Field.rs_iWord (op : BitVec 6) (rs rt : Reg) (imm : BitVec 16) :
    Field.rs (iWord op rs rt imm) = rs := by
  apply BitVec.eq_of_getLsbD_eq
  intro i hi
  simp only [Field.rs, iWord, BitVec.getLsbD_extractLsb', BitVec.getLsbD_append]
  interval_cases i <;> simp

@[simp] theorem Field.rt_iWord (op : BitVec 6) (rs rt : Reg) (imm : BitVec 16) :
    Field.rt (iWord op rs rt imm) = rt := by
  apply BitVec.eq_of_getLsbD_eq
  intro i hi
  simp only [Field.rt, iWord, BitVec.getLsbD_extractLsb', BitVec.getLsbD_append]
  interval_cases i <;> simp

@[simp] theorem Field.imm_iWord (op : BitVec 6) (rs rt : Reg) (imm : BitVec 16) :
    Field.imm (iWord op rs rt imm) = imm := by
  apply BitVec.eq_of_getLsbD_eq
  intro i hi
  simp only [Field.imm, iWord, BitVec.getLsbD_extractLsb', BitVec.getLsbD_append]
  interval_cases i <;> simp

@[simp] theorem Field.opcode_jWord (op : BitVec 6) (target : BitVec 26) :
    Field.opcode (jWord op target) = op := by
  apply BitVec.eq_of_getLsbD_eq
  intro i hi
  simp only [Field.opcode, jWord, BitVec.getLsbD_extractLsb', BitVec.getLsbD_append]
  interval_cases i <;> simp

@[simp] theorem Field.target_jWord (op : BitVec 6) (target : BitVec 26) :
    Field.target (jWord op target) = target := by
  apply BitVec.eq_of_getLsbD_eq
  intro i hi
  simp only [Field.target, jWord, BitVec.getLsbD_extractLsb', BitVec.getLsbD_append]
  interval_cases i <;> simp

@[simp] theorem Field.opcode_codeWord (code : BitVec 20) (func : BitVec 6) :
    Field.opcode (codeWord code func) = 0 := by
  apply BitVec.eq_of_getLsbD_eq
  intro i hi
  simp only [Field.opcode, codeWord, BitVec.getLsbD_extractLsb', BitVec.getLsbD_append]
  interval_cases i <;> simp

@[simp] theorem Field.code_codeWord (code : BitVec 20) (func : BitVec 6) :
    Field.code (codeWord code func) = code := by
  apply BitVec.eq_of_getLsbD_eq
  intro i hi
  simp only [Field.code, codeWord, BitVec.getLsbD_extractLsb', BitVec.getLsbD_append]
  interval_cases i <;> simp

@[simp] theorem Field.func_codeWord (code : BitVec 20) (func : BitVec 6) :
    Field.func (codeWord code func) = func := by
  apply BitVec.eq_of_getLsbD_eq
  intro i hi
  simp only [Field.func, codeWord, BitVec.getLsbD_extractLsb', BitVec.getLsbD_append]
  interval_cases i <;> simp

@[simp] theorem Field.opcode_trapWord (rs rt : Reg) (code : BitVec 10) (func : BitVec 6) :
    Field.opcode (trapWord rs rt code func) = 0 := by
  apply BitVec.eq_of_getLsbD_eq
  intro i hi
  simp only [Field.opcode, trapWord, BitVec.getLsbD_extractLsb', BitVec.getLsbD_append]
  interval_cases i <;> simp

@[simp] theorem Field.rs_trapWord (rs rt : Reg) (code : BitVec 10) (func : BitVec 6) :
    Field.rs (trapWord rs rt code func) = rs := by
  apply BitVec.eq_of_getLsbD_eq
  intro i hi
  simp only [Field.rs, trapWord, BitVec.getLsbD_extractLsb', BitVec.getLsbD_append]
  interval_cases i <;> simp

@[simp] theorem Field.rt_trapWord (rs rt : Reg) (code : BitVec 10) (func : BitVec 6) :
    Field.rt (trapWord rs rt code func) = rt := by
  apply BitVec.eq_of_getLsbD_eq
  intro i hi
  simp only [Field.rt, trapWord, BitVec.getLsbD_extractLsb', BitVec.getLsbD_append]
  interval_cases i <;> simp

@[simp] theorem Field.trapCode_trapWord (rs rt : Reg) (code : BitVec 10) (func : BitVec 6) :
    Field.trapCode (trapWord rs rt code func) = code := by
  apply BitVec.eq_of_getLsbD_eq
  intro i hi
  simp only [Field.trapCode, trapWord, BitVec.getLsbD_extractLsb', BitVec.getLsbD_append]
  interval_cases i <;> simp

@[simp] theorem Field.func_trapWord (rs rt : Reg) (code : BitVec 10) (func : BitVec 6) :
    Field.func (trapWord rs rt code func) = func := by
  apply BitVec.eq_of_getLsbD_eq
  intro i hi
  simp only [Field.func, trapWord, BitVec.getLsbD_extractLsb', BitVec.getLsbD_append]
  interval_cases i <;> simp

/-- The sub-fields of RT: BRANCH_CC, and ND with TF. -/
theorem extract_cc_of_append (cc : BitVec 3) (k : BitVec 2) :
    (cc ++ k : BitVec 5).extractLsb' 2 3 = cc ∧ (cc ++ k : BitVec 5).extractLsb' 0 2 = k := by
  constructor <;> apply BitVec.eq_of_getLsbD_eq <;> intro i hi <;>
    simp only [BitVec.getLsbD_extractLsb', BitVec.getLsbD_append] <;> interval_cases i <;> simp

@[simp] theorem Field.branchCc_bc1Word (cc : BitVec 3) (ndTf : BitVec 2) (offset : BitVec 16) :
    Field.branchCc (bc1Word cc ndTf offset) = cc := by
  simp [Field.branchCc, bc1Word, extract_cc_of_append]

@[simp] theorem Field.ndTf_bc1Word (cc : BitVec 3) (ndTf : BitVec 2) (offset : BitVec 16) :
    Field.ndTf (bc1Word cc ndTf offset) = ndTf := by
  simp [Field.ndTf, bc1Word, extract_cc_of_append]

@[simp] theorem Field.opcode_bc1Word (cc : BitVec 3) (ndTf : BitVec 2) (offset : BitVec 16) :
    Field.opcode (bc1Word cc ndTf offset) = 0x11 := by simp [bc1Word]

@[simp] theorem Field.rs_bc1Word (cc : BitVec 3) (ndTf : BitVec 2) (offset : BitVec 16) :
    Field.rs (bc1Word cc ndTf offset) = 8 := by simp [bc1Word]

@[simp] theorem Field.imm_bc1Word (cc : BitVec 3) (ndTf : BitVec 2) (offset : BitVec 16) :
    Field.imm (bc1Word cc ndTf offset) = offset := by simp [bc1Word]

@[simp] theorem Field.cc_cmpWord (fmt ft fs : Reg) (cc : BitVec 3) (func : BitVec 6) :
    Field.cc (cmpWord fmt ft fs cc func) = cc := by
  simp [Field.cc, cmpWord, extract_cc_of_append]

@[simp] theorem Field.cmpz_cmpWord (fmt ft fs : Reg) (cc : BitVec 3) (func : BitVec 6) :
    Field.cmpz (cmpWord fmt ft fs cc func) = 0 := by
  simp [Field.cmpz, cmpWord, extract_cc_of_append]

@[simp] theorem Field.opcode_cmpWord (fmt ft fs : Reg) (cc : BitVec 3) (func : BitVec 6) :
    Field.opcode (cmpWord fmt ft fs cc func) = 0x11 := by simp [cmpWord]

@[simp] theorem Field.rs_cmpWord (fmt ft fs : Reg) (cc : BitVec 3) (func : BitVec 6) :
    Field.rs (cmpWord fmt ft fs cc func) = fmt := by simp [cmpWord]

@[simp] theorem Field.rt_cmpWord (fmt ft fs : Reg) (cc : BitVec 3) (func : BitVec 6) :
    Field.rt (cmpWord fmt ft fs cc func) = ft := by simp [cmpWord]

@[simp] theorem Field.rd_cmpWord (fmt ft fs : Reg) (cc : BitVec 3) (func : BitVec 6) :
    Field.rd (cmpWord fmt ft fs cc func) = fs := by simp [cmpWord]

@[simp] theorem Field.func_cmpWord (fmt ft fs : Reg) (cc : BitVec 3) (func : BitVec 6) :
    Field.func (cmpWord fmt ft fs cc func) = func := by simp [cmpWord]

/-- One level of the tree, at a given field value. -/
theorem decodeWord_at {w : Word} {n : Nat} (h : (Field.opcode w).toNat = n) : decodeWord w = decodeWordAt n w := by
  subst h; rfl

/-- One level of the tree, at a given field value. -/
theorem decodeSpecial_at {w : Word} {n : Nat} (h : (Field.func w).toNat = n) : decodeSpecial w = decodeSpecialAt n w := by
  subst h; rfl

/-- One level of the tree, at a given field value. -/
theorem decodeRegimm_at {w : Word} {n : Nat} (h : (Field.rt w).toNat = n) : decodeRegimm w = decodeRegimmAt n w := by
  subst h; rfl

/-- One level of the tree, at a given field value. -/
theorem decodeCop1_at {w : Word} {n : Nat} (h : (Field.rs w).toNat = n) : decodeCop1 w = decodeCop1At n w := by
  subst h; rfl

/-- One level of the tree, at a given field value. -/
theorem decodeCop1S_at {w : Word} {n : Nat} (h : (Field.func w).toNat = n) : decodeCop1S w = decodeCop1SAt n w := by
  subst h; rfl

/-- One level of the tree, at a given field value. -/
theorem decodeCop1D_at {w : Word} {n : Nat} (h : (Field.func w).toNat = n) : decodeCop1D w = decodeCop1DAt n w := by
  subst h; rfl

end Sys2Proof
end

