-- ==== Sys2Proof/Laws/Memory.lean ====
section
/-! SUPPORT. The laws of memory: read after write, what a write leaves alone, and the canonical form kept. -/

namespace Sys2Proof.Machine

/-- A byte read after a write. -/
theorem Memory.read_write (m : Memory) (a b : Nat) (v : Byte) :
    (m.write a v).read b = if b = a then v else m.read b := by
  induction m with
  | nil =>
    by_cases hv : v = Memory.unlisted <;> by_cases hb : b = a <;>
      simp_all [Memory.write, Memory.read, eq_comm]
  | cons e m ih =>
    obtain ⟨c, w⟩ := e
    by_cases hc : c = a
    · subst hc
      rw [Memory.write, if_pos rfl, ih, Memory.read]
      by_cases hb : b = c
      · simp [hb]
      · simp [hb, Ne.symm hb]
    · rw [Memory.write, if_neg hc]
      split
      · rw [Memory.read, ih, Memory.read]
        by_cases hcb : c = b
        · have : b ≠ a := fun h => hc (hcb.trans h)
          simp [hcb, this]
        · simp [hcb]
      · rw [Memory.read]
        by_cases hb : b = a
        · simp [hb]
        · simp [hb, Ne.symm hb]

/-- A byte read after a write of the same byte. -/
@[simp] theorem Memory.read_write_self (m : Memory) (a : Nat) (v : Byte) : (m.write a v).read a = v := by
  simp [Memory.read_write]

/-- A byte read after a write of another byte. -/
theorem Memory.read_write_ne (m : Memory) {a b : Nat} (v : Byte) (h : b ≠ a) : (m.write a v).read b = m.read b := by
  simp [Memory.read_write, h]

/-- A list in canonical form from `lo` is in it from anywhere lower. -/
theorem Memory.wfFrom_mono {lo lo' : Nat} (h : lo' ≤ lo) : ∀ {m : Memory}, m.wfFrom lo = true → m.wfFrom lo' = true
  | [], _ => rfl
  | (a, v) :: m, hm => by
    simp only [Memory.wfFrom, Bool.and_eq_true, decide_eq_true_eq] at hm ⊢
    exact ⟨⟨⟨by omega, hm.1.1.2⟩, hm.1.2⟩, hm.2⟩

/-- A write keeps the canonical form. -/
theorem Memory.wfFrom_write {lo a : Nat} {v : Byte} (hl : lo ≤ a) (ha : a < 2 ^ 32) :
    ∀ {m : Memory}, m.wfFrom lo = true → (m.write a v).wfFrom lo = true := by
  intro m
  induction m generalizing lo with
  | nil => intro _; by_cases hv : v = Memory.unlisted <;> simp_all [Memory.write, Memory.wfFrom]
  | cons e m ih =>
    obtain ⟨c, w⟩ := e
    intro hm
    simp only [Memory.wfFrom, Bool.and_eq_true, decide_eq_true_eq] at hm
    rw [Memory.write]
    split
    · rename_i h; subst h
      exact ih hl (Memory.wfFrom_mono (by omega) hm.2)
    · split
      · rename_i hne h
        have ht : (Memory.write m a v).wfFrom (c + 1) = true := by
          rcases h with h | h
          · exact ih (by omega) hm.2
          · by_cases hca : c < a
            · exact ih (by omega) hm.2
            · subst h
              -- an erased address below the list: nothing changes
              have : ∀ {m : Memory} {k : Nat}, a < k → m.wfFrom k = true → Memory.write m a Memory.unlisted = m := by
                intro m
                induction m with
                | nil => intro k _ _; simp [Memory.write]
                | cons e m ihm =>
                  obtain ⟨d, x⟩ := e
                  intro k hk hd
                  simp only [Memory.wfFrom, Bool.and_eq_true, decide_eq_true_eq] at hd
                  have hne' : d ≠ a := by omega
                  rw [Memory.write, if_neg hne', if_pos (Or.inr rfl), ihm (k := d + 1) (by omega) hd.2]
              rw [this (k := c + 1) (by omega) hm.2]
              exact hm.2
        simp only [Memory.wfFrom, Bool.and_eq_true, decide_eq_true_eq]
        exact ⟨hm.1, ht⟩
      · rename_i hne h
        have hca : a < c := by omega
        have hv : v ≠ Memory.unlisted := fun e => h (Or.inr e)
        simp only [Memory.wfFrom, Bool.and_eq_true, decide_eq_true_eq]
        exact ⟨⟨⟨hl, ha⟩, hv⟩, ⟨⟨⟨by omega, hm.1.1.2⟩, hm.1.2⟩, hm.2⟩⟩

/-- A write inside the address space keeps the canonical form. -/
theorem Memory.wf_write {m : Memory} {a : Nat} {v : Byte} (ha : a < 2 ^ 32) (h : m.wf = true) :
    (m.write a v).wf = true := Memory.wfFrom_write (Nat.zero_le _) ha h

/-- A byte below the list reads as unlisted. -/
theorem Memory.read_of_wfFrom {lo : Nat} : ∀ {m : Memory} {a : Nat}, m.wfFrom lo = true → a < lo →
    m.read a = Memory.unlisted
  | [], _, _, _ => rfl
  | (c, w) :: m, a, hm, ha => by
    simp only [Memory.wfFrom, Bool.and_eq_true, decide_eq_true_eq] at hm
    rw [Memory.read, if_neg (by omega)]
    exact Memory.read_of_wfFrom hm.2 (by omega)

/-- Memories in canonical form that read alike are equal. -/
theorem Memory.ext_of_wfFrom {lo : Nat} : ∀ {m m' : Memory}, m.wfFrom lo = true → m'.wfFrom lo = true →
    (∀ a, m.read a = m'.read a) → m = m' := by
  intro m
  induction m generalizing lo with
  | nil =>
    intro m' _ hm' h
    cases m' with
    | nil => rfl
    | cons e m' =>
      obtain ⟨c, w⟩ := e
      simp only [Memory.wfFrom, Bool.and_eq_true, decide_eq_true_eq] at hm'
      have := h c
      simp [Memory.read] at this
      exact absurd this.symm hm'.1.2
  | cons e m ih =>
    obtain ⟨c, w⟩ := e
    intro m' hm hm' h
    have hm0 := hm
    simp only [Memory.wfFrom, Bool.and_eq_true, decide_eq_true_eq] at hm
    cases m' with
    | nil =>
      have := h c
      simp [Memory.read] at this
      exact absurd this hm.1.2
    | cons e' m' =>
      obtain ⟨c', w'⟩ := e'
      have hm0' := hm'
      simp only [Memory.wfFrom, Bool.and_eq_true, decide_eq_true_eq] at hm'
      have hcc : c = c' := by
        by_contra hne
        rcases Nat.lt_or_gt_of_ne hne with hlt | hlt
        · have h1 := h c
          have h2 : Memory.read ((c', w') :: m') c = Memory.unlisted := by
            rw [Memory.read, if_neg (by omega)]
            exact Memory.read_of_wfFrom hm'.2 (by omega)
          rw [h2, Memory.read, if_pos rfl] at h1
          exact hm.1.2 h1
        · have h1 := h c'
          have h2 : Memory.read ((c, w) :: m) c' = Memory.unlisted := by
            rw [Memory.read, if_neg (by omega)]
            exact Memory.read_of_wfFrom hm.2 (by omega)
          rw [h2, Memory.read, if_pos rfl] at h1
          exact hm'.1.2 h1.symm
      subst hcc
      have hw : w = w' := by simpa [Memory.read] using h c
      subst hw
      congr 1
      refine ih hm.2 hm'.2 fun a => ?_
      by_cases hac : c = a
      · subst hac
        rw [Memory.read_of_wfFrom hm.2 (by omega), Memory.read_of_wfFrom hm'.2 (by omega)]
      · simpa [Memory.read, hac] using h a

/-- Memories in canonical form that read alike are equal data. -/
theorem Memory.ext_of_wf {m m' : Memory} (hm : m.wf = true) (hm' : m'.wf = true)
    (h : ∀ a, m.read a = m'.read a) : m = m' := Memory.ext_of_wfFrom hm hm' h

/-! ## Units of 1, 2, 4 and 8 bytes -/

/-- A byte read after a byte store. -/
theorem Memory.byteAt_setByte (m : Memory) (a b : Word) (v : Byte) :
    (m.setByte a v).byteAt b = if b = a then v else m.byteAt b := by
  simp [Memory.byteAt, Memory.setByte, Memory.read_write, BitVec.toNat_inj]

/-- A byte read after a halfword store. -/
theorem Memory.byteAt_setHalf (m : Memory) (a b : Word) (v : BitVec 16) :
    (m.setHalf a v).byteAt b =
      if b = a + 1 then v.extractLsb' 8 8 else if b = a then v.extractLsb' 0 8 else m.byteAt b := by
  simp [Memory.setHalf, Memory.byteAt_setByte]

/-- A byte read after a word store. -/
theorem Memory.byteAt_setWord (m : Memory) (a b : Word) (v : Word) :
    (m.setWord a v).byteAt b =
      if b = a + 3 then byteOfWord v 3 else if b = a + 2 then byteOfWord v 2
      else if b = a + 1 then byteOfWord v 1 else if b = a then byteOfWord v 0 else m.byteAt b := by
  simp [Memory.setWord, Memory.byteAt_setByte]

/-- A byte store keeps the canonical form. -/
theorem Memory.wf_setByte {m : Memory} (a : Word) (v : Byte) (h : m.wf = true) : (m.setByte a v).wf = true :=
  Memory.wf_write a.isLt h

/-- A halfword store keeps the canonical form. -/
theorem Memory.wf_setHalf {m : Memory} (a : Word) (v : BitVec 16) (h : m.wf = true) : (m.setHalf a v).wf = true :=
  Memory.wf_setByte _ _ (Memory.wf_setByte _ _ h)

/-- A word store keeps the canonical form. -/
theorem Memory.wf_setWord {m : Memory} (a : Word) (v : Word) (h : m.wf = true) : (m.setWord a v).wf = true :=
  Memory.wf_setByte _ _ (Memory.wf_setByte _ _ (Memory.wf_setByte _ _ (Memory.wf_setByte _ _ h)))

/-- A doubleword store keeps the canonical form. -/
theorem Memory.wf_setDouble {m : Memory} (a : Word) (v : DWord) (h : m.wf = true) : (m.setDouble a v).wf = true :=
  Memory.wf_setWord _ _ (Memory.wf_setWord _ _ h)

/-- Bytes written in order keep the canonical form. -/
theorem Memory.wf_setBytes {m : Memory} (bytes : List (Word × Byte)) (h : m.wf = true) : (m.setBytes bytes).wf = true := by
  induction bytes generalizing m with
  | nil => exact h
  | cons p rest ih => exact ih (Memory.wf_setByte _ _ h)

/-- A byte that is not written keeps its value. -/
theorem Memory.byteAt_setBytes_of_notMem {m : Memory} {bytes : List (Word × Byte)} {a : Word} (h : ∀ p ∈ bytes, p.1 ≠ a) :
    (m.setBytes bytes).byteAt a = m.byteAt a := by
  induction bytes generalizing m with
  | nil => rfl
  | cons p rest ih =>
    have hp : a ≠ p.1 := (h p List.mem_cons_self).symm
    exact (ih fun q hq => h q (List.mem_cons_of_mem _ hq)).trans (by rw [Memory.byteAt_setByte, if_neg hp])

/-- Of the values given to a byte the last stands. -/
theorem Memory.byteAt_setBytes_last {m : Memory} {pre post : List (Word × Byte)} {a : Word} {v : Byte}
    (h : ∀ p ∈ post, p.1 ≠ a) : (m.setBytes (pre ++ (a, v) :: post)).byteAt a = v := by
  rw [Memory.setBytes, List.foldl_append, List.foldl_cons]
  exact (Memory.byteAt_setBytes_of_notMem h).trans (by rw [Memory.byteAt_setByte, if_pos rfl])

/-- The four bytes of a word, put together. -/
@[simp] theorem wordOfBytes_byteOfWord (w : Word) :
    wordOfBytes (byteOfWord w 0) (byteOfWord w 1) (byteOfWord w 2) (byteOfWord w 3) = w := by
  apply BitVec.eq_of_getLsbD_eq
  intro i hi
  simp only [wordOfBytes, byteOfWord, BitVec.getLsbD_append, BitVec.getLsbD_extractLsb']
  split_ifs <;>
    (rw [decide_eq_true (by omega), Bool.true_and]; congr 1; omega)

/-- A word read after a store of it. -/
@[simp] theorem Memory.wordAt_setWord_self (m : Memory) (a v : Word) : (m.setWord a v).wordAt a = v := by
  have h (i j : Word) (hij : i ≠ j) : a + i ≠ a + j := fun e => hij (by simpa using e)
  have h0 (j : Word) (hj : (0 : Word) ≠ j) : a ≠ a + j := by simpa using h 0 j hj
  simp [Memory.wordAt, Memory.byteAt_setWord, h]

/-- A halfword read after a store of it. -/
@[simp] theorem Memory.halfAt_setHalf_self (m : Memory) (a : Word) (v : BitVec 16) : (m.setHalf a v).halfAt a = v := by
  simp only [Memory.halfAt, Memory.byteAt_setHalf]
  have h : a ≠ a + 1 := by simp
  simp only [h, if_true, if_false]
  ext i hi
  simp only [BitVec.getElem_append, BitVec.getElem_extractLsb']
  split_ifs <;> (rw [← BitVec.getLsbD_eq_getElem]; congr 1; omega)

/-- The sum of R62: a halfword is the sum of its bytes, each shifted by its place. -/
theorem Memory.halfAt_toNat (m : Memory) (a : Word) :
    (m.halfAt a).toNat = (m.byteAt a).toNat + (m.byteAt (a + 1)).toNat <<< 8 := by
  have h := (m.byteAt a).isLt
  simp only [Memory.halfAt, BitVec.toNat_append, Nat.shiftLeft_eq]
  rw [← Nat.shiftLeft_eq, ← Nat.shiftLeft_add_eq_or_of_lt h, Nat.add_comm]

/-- The sum of R62 for a word. -/
theorem Memory.wordAt_toNat (m : Memory) (a : Word) :
    (m.wordAt a).toNat = (m.byteAt a).toNat + (m.byteAt (a + 1)).toNat <<< 8 + (m.byteAt (a + 2)).toNat <<< 16 +
      (m.byteAt (a + 3)).toNat <<< 24 := by
  have h0 := (m.byteAt a).isLt
  have h1 := (m.byteAt (a + 1)).isLt
  have h2 := (m.byteAt (a + 2)).isLt
  simp only [Memory.wordAt, wordOfBytes, BitVec.toNat_append]
  rw [← Nat.shiftLeft_add_eq_or_of_lt h0, ← Nat.shiftLeft_add_eq_or_of_lt h1, ← Nat.shiftLeft_add_eq_or_of_lt h2]
  simp only [Nat.shiftLeft_eq]
  omega

/-! ## Pairs of float words (R34) -/

/-- The words of a pair are distinct. -/
theorem pairLow_ne_pairHigh (i : Reg) : pairLow i ≠ pairHigh i := by
  revert i; decide

end Sys2Proof.Machine
end

