-- ==== Sys2Proof/Laws/State.lean ====
section
/-! SUPPORT. One lemma per field per update, so that no proof unfolds a record update. -/

namespace Sys2Proof.Machine

/-! ## Register sets -/

@[simp] theorem Regs.setX_x (r : Regs) (i : Reg) (v : Word) : (r.setX i v).x = r.x.set i.toNat v i.isLt := rfl
@[simp] theorem Regs.setX_fw (r : Regs) (i : Reg) (v : Word) : (r.setX i v).fw = r.fw := rfl
@[simp] theorem Regs.setX_lo (r : Regs) (i : Reg) (v : Word) : (r.setX i v).lo = r.lo := rfl
@[simp] theorem Regs.setX_hi (r : Regs) (i : Reg) (v : Word) : (r.setX i v).hi = r.hi := rfl
@[simp] theorem Regs.setX_ea (r : Regs) (i : Reg) (v : Word) : (r.setX i v).ea = r.ea := rfl
@[simp] theorem Regs.setX_fcsr (r : Regs) (i : Reg) (v : Word) : (r.setX i v).fcsr = r.fcsr := rfl
@[simp] theorem Regs.setX_pc (r : Regs) (i : Reg) (v : Word) : (r.setX i v).pc = r.pc := rfl
@[simp] theorem Regs.setX_npc (r : Regs) (i : Reg) (v : Word) : (r.setX i v).npc = r.npc := rfl
@[simp] theorem Regs.setX_nnpc (r : Regs) (i : Reg) (v : Word) : (r.setX i v).nnpc = r.nnpc := rfl

@[simp] theorem Regs.setFw_x (r : Regs) (i : Reg) (v : Word) : (r.setFw i v).x = r.x := rfl
@[simp] theorem Regs.setFw_fw (r : Regs) (i : Reg) (v : Word) : (r.setFw i v).fw = r.fw.set i.toNat v i.isLt := rfl
@[simp] theorem Regs.setFw_lo (r : Regs) (i : Reg) (v : Word) : (r.setFw i v).lo = r.lo := rfl
@[simp] theorem Regs.setFw_hi (r : Regs) (i : Reg) (v : Word) : (r.setFw i v).hi = r.hi := rfl
@[simp] theorem Regs.setFw_ea (r : Regs) (i : Reg) (v : Word) : (r.setFw i v).ea = r.ea := rfl
@[simp] theorem Regs.setFw_fcsr (r : Regs) (i : Reg) (v : Word) : (r.setFw i v).fcsr = r.fcsr := rfl
@[simp] theorem Regs.setFw_pc (r : Regs) (i : Reg) (v : Word) : (r.setFw i v).pc = r.pc := rfl
@[simp] theorem Regs.setFw_npc (r : Regs) (i : Reg) (v : Word) : (r.setFw i v).npc = r.npc := rfl
@[simp] theorem Regs.setFw_nnpc (r : Regs) (i : Reg) (v : Word) : (r.setFw i v).nnpc = r.nnpc := rfl

@[simp] theorem Regs.setLo_x (r : Regs) (v : Word) : (r.setLo v).x = r.x := rfl
@[simp] theorem Regs.setLo_fw (r : Regs) (v : Word) : (r.setLo v).fw = r.fw := rfl
@[simp] theorem Regs.setLo_lo (r : Regs) (v : Word) : (r.setLo v).lo = v := rfl
@[simp] theorem Regs.setLo_hi (r : Regs) (v : Word) : (r.setLo v).hi = r.hi := rfl
@[simp] theorem Regs.setLo_ea (r : Regs) (v : Word) : (r.setLo v).ea = r.ea := rfl
@[simp] theorem Regs.setLo_fcsr (r : Regs) (v : Word) : (r.setLo v).fcsr = r.fcsr := rfl
@[simp] theorem Regs.setLo_pc (r : Regs) (v : Word) : (r.setLo v).pc = r.pc := rfl
@[simp] theorem Regs.setLo_npc (r : Regs) (v : Word) : (r.setLo v).npc = r.npc := rfl
@[simp] theorem Regs.setLo_nnpc (r : Regs) (v : Word) : (r.setLo v).nnpc = r.nnpc := rfl

@[simp] theorem Regs.setHi_x (r : Regs) (v : Word) : (r.setHi v).x = r.x := rfl
@[simp] theorem Regs.setHi_fw (r : Regs) (v : Word) : (r.setHi v).fw = r.fw := rfl
@[simp] theorem Regs.setHi_lo (r : Regs) (v : Word) : (r.setHi v).lo = r.lo := rfl
@[simp] theorem Regs.setHi_hi (r : Regs) (v : Word) : (r.setHi v).hi = v := rfl
@[simp] theorem Regs.setHi_ea (r : Regs) (v : Word) : (r.setHi v).ea = r.ea := rfl
@[simp] theorem Regs.setHi_fcsr (r : Regs) (v : Word) : (r.setHi v).fcsr = r.fcsr := rfl
@[simp] theorem Regs.setHi_pc (r : Regs) (v : Word) : (r.setHi v).pc = r.pc := rfl
@[simp] theorem Regs.setHi_npc (r : Regs) (v : Word) : (r.setHi v).npc = r.npc := rfl
@[simp] theorem Regs.setHi_nnpc (r : Regs) (v : Word) : (r.setHi v).nnpc = r.nnpc := rfl

@[simp] theorem Regs.setEa_x (r : Regs) (v : Word) : (r.setEa v).x = r.x := rfl
@[simp] theorem Regs.setEa_fw (r : Regs) (v : Word) : (r.setEa v).fw = r.fw := rfl
@[simp] theorem Regs.setEa_lo (r : Regs) (v : Word) : (r.setEa v).lo = r.lo := rfl
@[simp] theorem Regs.setEa_hi (r : Regs) (v : Word) : (r.setEa v).hi = r.hi := rfl
@[simp] theorem Regs.setEa_ea (r : Regs) (v : Word) : (r.setEa v).ea = v := rfl
@[simp] theorem Regs.setEa_fcsr (r : Regs) (v : Word) : (r.setEa v).fcsr = r.fcsr := rfl
@[simp] theorem Regs.setEa_pc (r : Regs) (v : Word) : (r.setEa v).pc = r.pc := rfl
@[simp] theorem Regs.setEa_npc (r : Regs) (v : Word) : (r.setEa v).npc = r.npc := rfl
@[simp] theorem Regs.setEa_nnpc (r : Regs) (v : Word) : (r.setEa v).nnpc = r.nnpc := rfl

@[simp] theorem Regs.setFcsr_x (r : Regs) (v : Word) : (r.setFcsr v).x = r.x := rfl
@[simp] theorem Regs.setFcsr_fw (r : Regs) (v : Word) : (r.setFcsr v).fw = r.fw := rfl
@[simp] theorem Regs.setFcsr_lo (r : Regs) (v : Word) : (r.setFcsr v).lo = r.lo := rfl
@[simp] theorem Regs.setFcsr_hi (r : Regs) (v : Word) : (r.setFcsr v).hi = r.hi := rfl
@[simp] theorem Regs.setFcsr_ea (r : Regs) (v : Word) : (r.setFcsr v).ea = r.ea := rfl
@[simp] theorem Regs.setFcsr_fcsr (r : Regs) (v : Word) : (r.setFcsr v).fcsr = v := rfl
@[simp] theorem Regs.setFcsr_pc (r : Regs) (v : Word) : (r.setFcsr v).pc = r.pc := rfl
@[simp] theorem Regs.setFcsr_npc (r : Regs) (v : Word) : (r.setFcsr v).npc = r.npc := rfl
@[simp] theorem Regs.setFcsr_nnpc (r : Regs) (v : Word) : (r.setFcsr v).nnpc = r.nnpc := rfl

@[simp] theorem Regs.setNpc_x (r : Regs) (v : Word) : (r.setNpc v).x = r.x := rfl
@[simp] theorem Regs.setNpc_fw (r : Regs) (v : Word) : (r.setNpc v).fw = r.fw := rfl
@[simp] theorem Regs.setNpc_lo (r : Regs) (v : Word) : (r.setNpc v).lo = r.lo := rfl
@[simp] theorem Regs.setNpc_hi (r : Regs) (v : Word) : (r.setNpc v).hi = r.hi := rfl
@[simp] theorem Regs.setNpc_ea (r : Regs) (v : Word) : (r.setNpc v).ea = r.ea := rfl
@[simp] theorem Regs.setNpc_fcsr (r : Regs) (v : Word) : (r.setNpc v).fcsr = r.fcsr := rfl
@[simp] theorem Regs.setNpc_pc (r : Regs) (v : Word) : (r.setNpc v).pc = r.pc := rfl
@[simp] theorem Regs.setNpc_npc (r : Regs) (v : Word) : (r.setNpc v).npc = v := rfl
@[simp] theorem Regs.setNpc_nnpc (r : Regs) (v : Word) : (r.setNpc v).nnpc = r.nnpc := rfl

@[simp] theorem Regs.setNnpc_x (r : Regs) (v : Word) : (r.setNnpc v).x = r.x := rfl
@[simp] theorem Regs.setNnpc_fw (r : Regs) (v : Word) : (r.setNnpc v).fw = r.fw := rfl
@[simp] theorem Regs.setNnpc_lo (r : Regs) (v : Word) : (r.setNnpc v).lo = r.lo := rfl
@[simp] theorem Regs.setNnpc_hi (r : Regs) (v : Word) : (r.setNnpc v).hi = r.hi := rfl
@[simp] theorem Regs.setNnpc_ea (r : Regs) (v : Word) : (r.setNnpc v).ea = r.ea := rfl
@[simp] theorem Regs.setNnpc_fcsr (r : Regs) (v : Word) : (r.setNnpc v).fcsr = r.fcsr := rfl
@[simp] theorem Regs.setNnpc_pc (r : Regs) (v : Word) : (r.setNnpc v).pc = r.pc := rfl
@[simp] theorem Regs.setNnpc_npc (r : Regs) (v : Word) : (r.setNnpc v).npc = r.npc := rfl
@[simp] theorem Regs.setNnpc_nnpc (r : Regs) (v : Word) : (r.setNnpc v).nnpc = v := rfl

@[simp] theorem Regs.advance_x (r : Regs) : r.advance.x = r.x := rfl
@[simp] theorem Regs.advance_fw (r : Regs) : r.advance.fw = r.fw := rfl
@[simp] theorem Regs.advance_lo (r : Regs) : r.advance.lo = r.lo := rfl
@[simp] theorem Regs.advance_hi (r : Regs) : r.advance.hi = r.hi := rfl
@[simp] theorem Regs.advance_ea (r : Regs) : r.advance.ea = r.ea := rfl
@[simp] theorem Regs.advance_fcsr (r : Regs) : r.advance.fcsr = r.fcsr := rfl
@[simp] theorem Regs.advance_pc (r : Regs) : r.advance.pc = r.npc := rfl
@[simp] theorem Regs.advance_npc (r : Regs) : r.advance.npc = r.nnpc := rfl
@[simp] theorem Regs.advance_nnpc (r : Regs) : r.advance.nnpc = r.nnpc + 4 := rfl

@[simp] theorem Regs.setX_getFw (r : Regs) (j : Reg) (v : Word) (k : Reg) : (r.setX j v).getFw k = r.getFw k := rfl
@[simp] theorem Regs.setFw_getX (r : Regs) (j : Reg) (v : Word) (k : Reg) : (r.setFw j v).getX k = r.getX k := rfl
@[simp] theorem Regs.setLo_getX (r : Regs) (v : Word) (k : Reg) : (r.setLo v).getX k = r.getX k := rfl
@[simp] theorem Regs.setLo_getFw (r : Regs) (v : Word) (k : Reg) : (r.setLo v).getFw k = r.getFw k := rfl
@[simp] theorem Regs.setHi_getX (r : Regs) (v : Word) (k : Reg) : (r.setHi v).getX k = r.getX k := rfl
@[simp] theorem Regs.setHi_getFw (r : Regs) (v : Word) (k : Reg) : (r.setHi v).getFw k = r.getFw k := rfl
@[simp] theorem Regs.setEa_getX (r : Regs) (v : Word) (k : Reg) : (r.setEa v).getX k = r.getX k := rfl
@[simp] theorem Regs.setEa_getFw (r : Regs) (v : Word) (k : Reg) : (r.setEa v).getFw k = r.getFw k := rfl
@[simp] theorem Regs.setFcsr_getX (r : Regs) (v : Word) (k : Reg) : (r.setFcsr v).getX k = r.getX k := rfl
@[simp] theorem Regs.setFcsr_getFw (r : Regs) (v : Word) (k : Reg) : (r.setFcsr v).getFw k = r.getFw k := rfl
@[simp] theorem Regs.setNpc_getX (r : Regs) (v : Word) (k : Reg) : (r.setNpc v).getX k = r.getX k := rfl
@[simp] theorem Regs.setNpc_getFw (r : Regs) (v : Word) (k : Reg) : (r.setNpc v).getFw k = r.getFw k := rfl
@[simp] theorem Regs.setNnpc_getX (r : Regs) (v : Word) (k : Reg) : (r.setNnpc v).getX k = r.getX k := rfl
@[simp] theorem Regs.setNnpc_getFw (r : Regs) (v : Word) (k : Reg) : (r.setNnpc v).getFw k = r.getFw k := rfl
@[simp] theorem Regs.advance_getX (r : Regs) (k : Reg) : r.advance.getX k = r.getX k := rfl
@[simp] theorem Regs.advance_getFw (r : Regs) (k : Reg) : r.advance.getFw k = r.getFw k := rfl

/-- A register read after a write of the same register. -/
@[simp] theorem Regs.getX_setX_self (r : Regs) (i : Reg) (v : Word) : (r.setX i v).getX i = v := by
  simp [Regs.getX, Regs.setX]

/-- A register read after a write of another one. -/
theorem Regs.getX_setX_ne (r : Regs) (i k : Reg) (v : Word) (h : k ≠ i) : (r.setX i v).getX k = r.getX k := by
  have : i.toNat ≠ k.toNat := fun e => h (BitVec.eq_of_toNat_eq e.symm)
  simp [Regs.getX, Regs.setX, this]

/-- A register read after a write. -/
theorem Regs.getX_setX (r : Regs) (i k : Reg) (v : Word) :
    (r.setX i v).getX k = if k = i then v else r.getX k := by
  by_cases h : k = i
  · subst h; simp
  · simp [h, Regs.getX_setX_ne]

/-- A float word read after a write of the same word. -/
@[simp] theorem Regs.getFw_setFw_self (r : Regs) (i : Reg) (v : Word) : (r.setFw i v).getFw i = v := by
  simp [Regs.getFw, Regs.setFw]

/-- A float word read after a write of another one. -/
theorem Regs.getFw_setFw_ne (r : Regs) (i k : Reg) (v : Word) (h : k ≠ i) : (r.setFw i v).getFw k = r.getFw k := by
  have : i.toNat ≠ k.toNat := fun e => h (BitVec.eq_of_toNat_eq e.symm)
  simp [Regs.getFw, Regs.setFw, this]

/-- A float word read after a write. -/
theorem Regs.getFw_setFw (r : Regs) (i k : Reg) (v : Word) :
    (r.setFw i v).getFw k = if k = i then v else r.getFw k := by
  by_cases h : k = i
  · subst h; simp
  · simp [h, Regs.getFw_setFw_ne]

/-- A named register read after a write of a named one. -/
theorem Regs.getNamed_setNamed (r : Regs) (n k : RegName) (v : Word) :
    (r.setNamed n v).getNamed k = if k = n then v else r.getNamed k := by
  cases n <;> cases k <;> simp [Regs.getNamed, Regs.setNamed, Regs.getX_setX, Regs.getFw_setFw]

/-- Writing named registers keeps the counters. -/
theorem Regs.setAll_counters (r : Regs) (values : List (RegName × Word)) :
    (r.setAll values).pc = r.pc ∧ (r.setAll values).npc = r.npc ∧ (r.setAll values).nnpc = r.nnpc := by
  induction values generalizing r with
  | nil => exact ⟨rfl, rfl, rfl⟩
  | cons p rest ih =>
    obtain ⟨h1, h2, h3⟩ := ih (r.setNamed p.1 p.2)
    obtain ⟨n, v⟩ := p
    exact ⟨h1.trans (by cases n <;> rfl), h2.trans (by cases n <;> rfl), h3.trans (by cases n <;> rfl)⟩

/-- A register that is not named keeps its value. -/
theorem Regs.getNamed_setAll_of_notMem {r : Regs} {values : List (RegName × Word)} {k : RegName}
    (h : ∀ p ∈ values, p.1 ≠ k) : (r.setAll values).getNamed k = r.getNamed k := by
  induction values generalizing r with
  | nil => rfl
  | cons p rest ih =>
    have hk : k ≠ p.1 := (h p List.mem_cons_self).symm
    exact (ih fun q hq => h q (List.mem_cons_of_mem _ hq)).trans (by rw [Regs.getNamed_setNamed, if_neg hk])

/-- Of the values given to a register the last stands. -/
theorem Regs.getNamed_setAll_last {r : Regs} {pre post : List (RegName × Word)} {k : RegName} {v : Word}
    (h : ∀ p ∈ post, p.1 ≠ k) : (r.setAll (pre ++ (k, v) :: post)).getNamed k = v := by
  rw [Regs.setAll, List.foldl_append, List.foldl_cons]
  exact (Regs.getNamed_setAll_of_notMem h).trans (by rw [Regs.getNamed_setNamed, if_pos rfl])

/-- Register sets with equal registers and words are equal. -/
theorem Regs.ext_get {r t : Regs} (hx : ∀ i, r.getX i = t.getX i) (hf : ∀ i, r.getFw i = t.getFw i)
    (hlo : r.lo = t.lo) (hhi : r.hi = t.hi) (hea : r.ea = t.ea) (hc : r.fcsr = t.fcsr) (hpc : r.pc = t.pc)
    (hn : r.npc = t.npc) (hnn : r.nnpc = t.nnpc) : r = t := by
  obtain ⟨rx, rf, _, _, _, _, _, _, _⟩ := r
  obtain ⟨tx, tf, _, _, _, _, _, _, _⟩ := t
  have ex : rx = tx := by
    refine Vector.ext fun i h => ?_
    have := hx (BitVec.ofNat 5 i)
    simpa [Regs.getX, Nat.mod_eq_of_lt h] using this
  have ef : rf = tf := by
    refine Vector.ext fun i h => ?_
    have := hf (BitVec.ofNat 5 i)
    simpa [Regs.getFw, Nat.mod_eq_of_lt h] using this
  simp_all

/-! ## States -/

@[simp] theorem State.setLive_tid (s : State) (r : Regs) : (s.setLive r).tid = s.tid := rfl
@[simp] theorem State.setLive_core (s : State) (r : Regs) : (s.setLive r).core = s.core := rfl
@[simp] theorem State.setLive_live (s : State) (r : Regs) : (s.setLive r).live = r := rfl
@[simp] theorem State.setLive_isSpeculative (s : State) (r : Regs) : (s.setLive r).isSpeculative = s.isSpeculative := rfl
@[simp] theorem State.setLive_shadow (s : State) (r : Regs) : (s.setLive r).shadow = s.shadow := rfl
@[simp] theorem State.setLive_pendingStore (s : State) (r : Regs) : (s.setLive r).pendingStore = s.pendingStore := rfl
@[simp] theorem State.setLive_others (s : State) (r : Regs) : (s.setLive r).others = s.others := rfl
@[simp] theorem State.setLive_mem (s : State) (r : Regs) : (s.setLive r).mem = s.mem := rfl
@[simp] theorem State.setLive_mapped (s : State) (r : Regs) : (s.setLive r).mapped = s.mapped := rfl
@[simp] theorem State.setLive_decodeCache (s : State) (r : Regs) : (s.setLive r).decodeCache = s.decodeCache := rfl
@[simp] theorem State.setLive_params (s : State) (r : Regs) : (s.setLive r).params = s.params := rfl
@[simp] theorem State.setLive_haltPc (s : State) (r : Regs) : (s.setLive r).haltPc = s.haltPc := rfl
@[simp] theorem State.setLive_schedule (s : State) (r : Regs) : (s.setLive r).schedule = s.schedule := rfl
@[simp] theorem State.setLive_hostAnswers (s : State) (r : Regs) : (s.setLive r).hostAnswers = s.hostAnswers := rfl
@[simp] theorem State.setLive_faultRecord (s : State) (r : Regs) : (s.setLive r).faultRecord = s.faultRecord := rfl
@[simp] theorem State.setLive_warnings (s : State) (r : Regs) : (s.setLive r).warnings = s.warnings := rfl
@[simp] theorem State.setLive_runEnd (s : State) (r : Regs) : (s.setLive r).runEnd = s.runEnd := rfl
@[simp] theorem State.setLive_hostOut1 (s : State) (r : Regs) : (s.setLive r).hostOut1 = s.hostOut1 := rfl
@[simp] theorem State.setLive_hostOut2 (s : State) (r : Regs) : (s.setLive r).hostOut2 = s.hostOut2 := rfl
@[simp] theorem State.setLive_draws (s : State) (r : Regs) : (s.setLive r).draws = s.draws := rfl

@[simp] theorem State.setMem_tid (s : State) (m : Memory) : (s.setMem m).tid = s.tid := rfl
@[simp] theorem State.setMem_core (s : State) (m : Memory) : (s.setMem m).core = s.core := rfl
@[simp] theorem State.setMem_live (s : State) (m : Memory) : (s.setMem m).live = s.live := rfl
@[simp] theorem State.setMem_isSpeculative (s : State) (m : Memory) : (s.setMem m).isSpeculative = s.isSpeculative := rfl
@[simp] theorem State.setMem_shadow (s : State) (m : Memory) : (s.setMem m).shadow = s.shadow := rfl
@[simp] theorem State.setMem_pendingStore (s : State) (m : Memory) : (s.setMem m).pendingStore = s.pendingStore := rfl
@[simp] theorem State.setMem_others (s : State) (m : Memory) : (s.setMem m).others = s.others := rfl
@[simp] theorem State.setMem_mem (s : State) (m : Memory) : (s.setMem m).mem = m := rfl
@[simp] theorem State.setMem_mapped (s : State) (m : Memory) : (s.setMem m).mapped = s.mapped := rfl
@[simp] theorem State.setMem_decodeCache (s : State) (m : Memory) : (s.setMem m).decodeCache = s.decodeCache := rfl
@[simp] theorem State.setMem_params (s : State) (m : Memory) : (s.setMem m).params = s.params := rfl
@[simp] theorem State.setMem_haltPc (s : State) (m : Memory) : (s.setMem m).haltPc = s.haltPc := rfl
@[simp] theorem State.setMem_schedule (s : State) (m : Memory) : (s.setMem m).schedule = s.schedule := rfl
@[simp] theorem State.setMem_hostAnswers (s : State) (m : Memory) : (s.setMem m).hostAnswers = s.hostAnswers := rfl
@[simp] theorem State.setMem_faultRecord (s : State) (m : Memory) : (s.setMem m).faultRecord = s.faultRecord := rfl
@[simp] theorem State.setMem_warnings (s : State) (m : Memory) : (s.setMem m).warnings = s.warnings := rfl
@[simp] theorem State.setMem_runEnd (s : State) (m : Memory) : (s.setMem m).runEnd = s.runEnd := rfl
@[simp] theorem State.setMem_hostOut1 (s : State) (m : Memory) : (s.setMem m).hostOut1 = s.hostOut1 := rfl
@[simp] theorem State.setMem_hostOut2 (s : State) (m : Memory) : (s.setMem m).hostOut2 = s.hostOut2 := rfl
@[simp] theorem State.setMem_draws (s : State) (m : Memory) : (s.setMem m).draws = s.draws := rfl

@[simp] theorem State.warn_tid (s : State) (n : String) : (s.warn n).tid = s.tid := rfl
@[simp] theorem State.warn_core (s : State) (n : String) : (s.warn n).core = s.core := rfl
@[simp] theorem State.warn_live (s : State) (n : String) : (s.warn n).live = s.live := rfl
@[simp] theorem State.warn_isSpeculative (s : State) (n : String) : (s.warn n).isSpeculative = s.isSpeculative := rfl
@[simp] theorem State.warn_shadow (s : State) (n : String) : (s.warn n).shadow = s.shadow := rfl
@[simp] theorem State.warn_pendingStore (s : State) (n : String) : (s.warn n).pendingStore = s.pendingStore := rfl
@[simp] theorem State.warn_others (s : State) (n : String) : (s.warn n).others = s.others := rfl
@[simp] theorem State.warn_mem (s : State) (n : String) : (s.warn n).mem = s.mem := rfl
@[simp] theorem State.warn_mapped (s : State) (n : String) : (s.warn n).mapped = s.mapped := rfl
@[simp] theorem State.warn_decodeCache (s : State) (n : String) : (s.warn n).decodeCache = s.decodeCache := rfl
@[simp] theorem State.warn_params (s : State) (n : String) : (s.warn n).params = s.params := rfl
@[simp] theorem State.warn_haltPc (s : State) (n : String) : (s.warn n).haltPc = s.haltPc := rfl
@[simp] theorem State.warn_schedule (s : State) (n : String) : (s.warn n).schedule = s.schedule := rfl
@[simp] theorem State.warn_hostAnswers (s : State) (n : String) : (s.warn n).hostAnswers = s.hostAnswers := rfl
@[simp] theorem State.warn_faultRecord (s : State) (n : String) : (s.warn n).faultRecord = s.faultRecord := rfl
@[simp] theorem State.warn_warnings (s : State) (n : String) : (s.warn n).warnings = s.warnings ++ [(s.live.pc, n)] := rfl
@[simp] theorem State.warn_runEnd (s : State) (n : String) : (s.warn n).runEnd = s.runEnd := rfl
@[simp] theorem State.warn_hostOut1 (s : State) (n : String) : (s.warn n).hostOut1 = s.hostOut1 := rfl
@[simp] theorem State.warn_hostOut2 (s : State) (n : String) : (s.warn n).hostOut2 = s.hostOut2 := rfl
@[simp] theorem State.warn_draws (s : State) (n : String) : (s.warn n).draws = s.draws := rfl

@[simp] theorem State.recordFault_tid (s : State) (f : Fault) : (s.recordFault f).tid = s.tid := rfl
@[simp] theorem State.recordFault_core (s : State) (f : Fault) : (s.recordFault f).core = s.core := rfl
@[simp] theorem State.recordFault_live (s : State) (f : Fault) : (s.recordFault f).live = s.live := rfl
@[simp] theorem State.recordFault_isSpeculative (s : State) (f : Fault) : (s.recordFault f).isSpeculative = s.isSpeculative := rfl
@[simp] theorem State.recordFault_shadow (s : State) (f : Fault) : (s.recordFault f).shadow = s.shadow := rfl
@[simp] theorem State.recordFault_pendingStore (s : State) (f : Fault) : (s.recordFault f).pendingStore = s.pendingStore := rfl
@[simp] theorem State.recordFault_others (s : State) (f : Fault) : (s.recordFault f).others = s.others := rfl
@[simp] theorem State.recordFault_mem (s : State) (f : Fault) : (s.recordFault f).mem = s.mem := rfl
@[simp] theorem State.recordFault_mapped (s : State) (f : Fault) : (s.recordFault f).mapped = s.mapped := rfl
@[simp] theorem State.recordFault_decodeCache (s : State) (f : Fault) : (s.recordFault f).decodeCache = s.decodeCache := rfl
@[simp] theorem State.recordFault_params (s : State) (f : Fault) : (s.recordFault f).params = s.params := rfl
@[simp] theorem State.recordFault_haltPc (s : State) (f : Fault) : (s.recordFault f).haltPc = s.haltPc := rfl
@[simp] theorem State.recordFault_schedule (s : State) (f : Fault) : (s.recordFault f).schedule = s.schedule := rfl
@[simp] theorem State.recordFault_hostAnswers (s : State) (f : Fault) : (s.recordFault f).hostAnswers = s.hostAnswers := rfl
@[simp] theorem State.recordFault_faultRecord (s : State) (f : Fault) : (s.recordFault f).faultRecord = some (s.faultRecord.getD f) := rfl
@[simp] theorem State.recordFault_warnings (s : State) (f : Fault) : (s.recordFault f).warnings = s.warnings := rfl
@[simp] theorem State.recordFault_runEnd (s : State) (f : Fault) : (s.recordFault f).runEnd = s.runEnd := rfl
@[simp] theorem State.recordFault_hostOut1 (s : State) (f : Fault) : (s.recordFault f).hostOut1 = s.hostOut1 := rfl
@[simp] theorem State.recordFault_hostOut2 (s : State) (f : Fault) : (s.recordFault f).hostOut2 = s.hostOut2 := rfl
@[simp] theorem State.recordFault_draws (s : State) (f : Fault) : (s.recordFault f).draws = s.draws := rfl

@[simp] theorem State.endRun_tid (s : State) (e : RunEnd) : (s.endRun e).tid = s.tid := rfl
@[simp] theorem State.endRun_core (s : State) (e : RunEnd) : (s.endRun e).core = s.core := rfl
@[simp] theorem State.endRun_live (s : State) (e : RunEnd) : (s.endRun e).live = s.live := rfl
@[simp] theorem State.endRun_isSpeculative (s : State) (e : RunEnd) : (s.endRun e).isSpeculative = s.isSpeculative := rfl
@[simp] theorem State.endRun_shadow (s : State) (e : RunEnd) : (s.endRun e).shadow = s.shadow := rfl
@[simp] theorem State.endRun_pendingStore (s : State) (e : RunEnd) : (s.endRun e).pendingStore = s.pendingStore := rfl
@[simp] theorem State.endRun_others (s : State) (e : RunEnd) : (s.endRun e).others = s.others := rfl
@[simp] theorem State.endRun_mem (s : State) (e : RunEnd) : (s.endRun e).mem = s.mem := rfl
@[simp] theorem State.endRun_mapped (s : State) (e : RunEnd) : (s.endRun e).mapped = s.mapped := rfl
@[simp] theorem State.endRun_decodeCache (s : State) (e : RunEnd) : (s.endRun e).decodeCache = s.decodeCache := rfl
@[simp] theorem State.endRun_params (s : State) (e : RunEnd) : (s.endRun e).params = s.params := rfl
@[simp] theorem State.endRun_haltPc (s : State) (e : RunEnd) : (s.endRun e).haltPc = s.haltPc := rfl
@[simp] theorem State.endRun_schedule (s : State) (e : RunEnd) : (s.endRun e).schedule = s.schedule := rfl
@[simp] theorem State.endRun_hostAnswers (s : State) (e : RunEnd) : (s.endRun e).hostAnswers = s.hostAnswers := rfl
@[simp] theorem State.endRun_faultRecord (s : State) (e : RunEnd) : (s.endRun e).faultRecord = s.faultRecord := rfl
@[simp] theorem State.endRun_warnings (s : State) (e : RunEnd) : (s.endRun e).warnings = s.warnings := rfl
@[simp] theorem State.endRun_runEnd (s : State) (e : RunEnd) : (s.endRun e).runEnd = some e := rfl
@[simp] theorem State.endRun_hostOut1 (s : State) (e : RunEnd) : (s.endRun e).hostOut1 = s.hostOut1 := rfl
@[simp] theorem State.endRun_hostOut2 (s : State) (e : RunEnd) : (s.endRun e).hostOut2 = s.hostOut2 := rfl
@[simp] theorem State.endRun_draws (s : State) (e : RunEnd) : (s.endRun e).draws = s.draws := rfl

@[simp] theorem State.appendOut1_tid (s : State) (b : List Byte) : (s.appendOut1 b).tid = s.tid := rfl
@[simp] theorem State.appendOut1_core (s : State) (b : List Byte) : (s.appendOut1 b).core = s.core := rfl
@[simp] theorem State.appendOut1_live (s : State) (b : List Byte) : (s.appendOut1 b).live = s.live := rfl
@[simp] theorem State.appendOut1_isSpeculative (s : State) (b : List Byte) : (s.appendOut1 b).isSpeculative = s.isSpeculative := rfl
@[simp] theorem State.appendOut1_shadow (s : State) (b : List Byte) : (s.appendOut1 b).shadow = s.shadow := rfl
@[simp] theorem State.appendOut1_pendingStore (s : State) (b : List Byte) : (s.appendOut1 b).pendingStore = s.pendingStore := rfl
@[simp] theorem State.appendOut1_others (s : State) (b : List Byte) : (s.appendOut1 b).others = s.others := rfl
@[simp] theorem State.appendOut1_mem (s : State) (b : List Byte) : (s.appendOut1 b).mem = s.mem := rfl
@[simp] theorem State.appendOut1_mapped (s : State) (b : List Byte) : (s.appendOut1 b).mapped = s.mapped := rfl
@[simp] theorem State.appendOut1_decodeCache (s : State) (b : List Byte) : (s.appendOut1 b).decodeCache = s.decodeCache := rfl
@[simp] theorem State.appendOut1_params (s : State) (b : List Byte) : (s.appendOut1 b).params = s.params := rfl
@[simp] theorem State.appendOut1_haltPc (s : State) (b : List Byte) : (s.appendOut1 b).haltPc = s.haltPc := rfl
@[simp] theorem State.appendOut1_schedule (s : State) (b : List Byte) : (s.appendOut1 b).schedule = s.schedule := rfl
@[simp] theorem State.appendOut1_hostAnswers (s : State) (b : List Byte) : (s.appendOut1 b).hostAnswers = s.hostAnswers := rfl
@[simp] theorem State.appendOut1_faultRecord (s : State) (b : List Byte) : (s.appendOut1 b).faultRecord = s.faultRecord := rfl
@[simp] theorem State.appendOut1_warnings (s : State) (b : List Byte) : (s.appendOut1 b).warnings = s.warnings := rfl
@[simp] theorem State.appendOut1_runEnd (s : State) (b : List Byte) : (s.appendOut1 b).runEnd = s.runEnd := rfl
@[simp] theorem State.appendOut1_hostOut1 (s : State) (b : List Byte) : (s.appendOut1 b).hostOut1 = s.hostOut1 ++ b := rfl
@[simp] theorem State.appendOut1_hostOut2 (s : State) (b : List Byte) : (s.appendOut1 b).hostOut2 = s.hostOut2 := rfl
@[simp] theorem State.appendOut1_draws (s : State) (b : List Byte) : (s.appendOut1 b).draws = s.draws := rfl

@[simp] theorem State.appendOut2_tid (s : State) (b : List Byte) : (s.appendOut2 b).tid = s.tid := rfl
@[simp] theorem State.appendOut2_core (s : State) (b : List Byte) : (s.appendOut2 b).core = s.core := rfl
@[simp] theorem State.appendOut2_live (s : State) (b : List Byte) : (s.appendOut2 b).live = s.live := rfl
@[simp] theorem State.appendOut2_isSpeculative (s : State) (b : List Byte) : (s.appendOut2 b).isSpeculative = s.isSpeculative := rfl
@[simp] theorem State.appendOut2_shadow (s : State) (b : List Byte) : (s.appendOut2 b).shadow = s.shadow := rfl
@[simp] theorem State.appendOut2_pendingStore (s : State) (b : List Byte) : (s.appendOut2 b).pendingStore = s.pendingStore := rfl
@[simp] theorem State.appendOut2_others (s : State) (b : List Byte) : (s.appendOut2 b).others = s.others := rfl
@[simp] theorem State.appendOut2_mem (s : State) (b : List Byte) : (s.appendOut2 b).mem = s.mem := rfl
@[simp] theorem State.appendOut2_mapped (s : State) (b : List Byte) : (s.appendOut2 b).mapped = s.mapped := rfl
@[simp] theorem State.appendOut2_decodeCache (s : State) (b : List Byte) : (s.appendOut2 b).decodeCache = s.decodeCache := rfl
@[simp] theorem State.appendOut2_params (s : State) (b : List Byte) : (s.appendOut2 b).params = s.params := rfl
@[simp] theorem State.appendOut2_haltPc (s : State) (b : List Byte) : (s.appendOut2 b).haltPc = s.haltPc := rfl
@[simp] theorem State.appendOut2_schedule (s : State) (b : List Byte) : (s.appendOut2 b).schedule = s.schedule := rfl
@[simp] theorem State.appendOut2_hostAnswers (s : State) (b : List Byte) : (s.appendOut2 b).hostAnswers = s.hostAnswers := rfl
@[simp] theorem State.appendOut2_faultRecord (s : State) (b : List Byte) : (s.appendOut2 b).faultRecord = s.faultRecord := rfl
@[simp] theorem State.appendOut2_warnings (s : State) (b : List Byte) : (s.appendOut2 b).warnings = s.warnings := rfl
@[simp] theorem State.appendOut2_runEnd (s : State) (b : List Byte) : (s.appendOut2 b).runEnd = s.runEnd := rfl
@[simp] theorem State.appendOut2_hostOut1 (s : State) (b : List Byte) : (s.appendOut2 b).hostOut1 = s.hostOut1 := rfl
@[simp] theorem State.appendOut2_hostOut2 (s : State) (b : List Byte) : (s.appendOut2 b).hostOut2 = s.hostOut2 ++ b := rfl
@[simp] theorem State.appendOut2_draws (s : State) (b : List Byte) : (s.appendOut2 b).draws = s.draws := rfl

@[simp] theorem State.useDraws_tid (s : State) (n : Nat) : (s.useDraws n).tid = s.tid := rfl
@[simp] theorem State.useDraws_core (s : State) (n : Nat) : (s.useDraws n).core = s.core := rfl
@[simp] theorem State.useDraws_live (s : State) (n : Nat) : (s.useDraws n).live = s.live := rfl
@[simp] theorem State.useDraws_isSpeculative (s : State) (n : Nat) : (s.useDraws n).isSpeculative = s.isSpeculative := rfl
@[simp] theorem State.useDraws_shadow (s : State) (n : Nat) : (s.useDraws n).shadow = s.shadow := rfl
@[simp] theorem State.useDraws_pendingStore (s : State) (n : Nat) : (s.useDraws n).pendingStore = s.pendingStore := rfl
@[simp] theorem State.useDraws_others (s : State) (n : Nat) : (s.useDraws n).others = s.others := rfl
@[simp] theorem State.useDraws_mem (s : State) (n : Nat) : (s.useDraws n).mem = s.mem := rfl
@[simp] theorem State.useDraws_mapped (s : State) (n : Nat) : (s.useDraws n).mapped = s.mapped := rfl
@[simp] theorem State.useDraws_decodeCache (s : State) (n : Nat) : (s.useDraws n).decodeCache = s.decodeCache := rfl
@[simp] theorem State.useDraws_params (s : State) (n : Nat) : (s.useDraws n).params = s.params := rfl
@[simp] theorem State.useDraws_haltPc (s : State) (n : Nat) : (s.useDraws n).haltPc = s.haltPc := rfl
@[simp] theorem State.useDraws_schedule (s : State) (n : Nat) : (s.useDraws n).schedule = s.schedule := rfl
@[simp] theorem State.useDraws_hostAnswers (s : State) (n : Nat) : (s.useDraws n).hostAnswers = s.hostAnswers := rfl
@[simp] theorem State.useDraws_faultRecord (s : State) (n : Nat) : (s.useDraws n).faultRecord = s.faultRecord := rfl
@[simp] theorem State.useDraws_warnings (s : State) (n : Nat) : (s.useDraws n).warnings = s.warnings := rfl
@[simp] theorem State.useDraws_runEnd (s : State) (n : Nat) : (s.useDraws n).runEnd = s.runEnd := rfl
@[simp] theorem State.useDraws_hostOut1 (s : State) (n : Nat) : (s.useDraws n).hostOut1 = s.hostOut1 := rfl
@[simp] theorem State.useDraws_hostOut2 (s : State) (n : Nat) : (s.useDraws n).hostOut2 = s.hostOut2 := rfl
@[simp] theorem State.useDraws_draws (s : State) (n : Nat) : (s.useDraws n).draws = s.draws + n := rfl

@[simp] theorem State.cacheInsert_tid (s : State) (e : CacheEntry) : (s.cacheInsert e).tid = s.tid := rfl
@[simp] theorem State.cacheInsert_core (s : State) (e : CacheEntry) : (s.cacheInsert e).core = s.core := rfl
@[simp] theorem State.cacheInsert_live (s : State) (e : CacheEntry) : (s.cacheInsert e).live = s.live := rfl
@[simp] theorem State.cacheInsert_isSpeculative (s : State) (e : CacheEntry) : (s.cacheInsert e).isSpeculative = s.isSpeculative := rfl
@[simp] theorem State.cacheInsert_shadow (s : State) (e : CacheEntry) : (s.cacheInsert e).shadow = s.shadow := rfl
@[simp] theorem State.cacheInsert_pendingStore (s : State) (e : CacheEntry) : (s.cacheInsert e).pendingStore = s.pendingStore := rfl
@[simp] theorem State.cacheInsert_others (s : State) (e : CacheEntry) : (s.cacheInsert e).others = s.others := rfl
@[simp] theorem State.cacheInsert_mem (s : State) (e : CacheEntry) : (s.cacheInsert e).mem = s.mem := rfl
@[simp] theorem State.cacheInsert_mapped (s : State) (e : CacheEntry) : (s.cacheInsert e).mapped = s.mapped := rfl
@[simp] theorem State.cacheInsert_decodeCache (s : State) (e : CacheEntry) : (s.cacheInsert e).decodeCache = e :: s.decodeCache := rfl
@[simp] theorem State.cacheInsert_params (s : State) (e : CacheEntry) : (s.cacheInsert e).params = s.params := rfl
@[simp] theorem State.cacheInsert_haltPc (s : State) (e : CacheEntry) : (s.cacheInsert e).haltPc = s.haltPc := rfl
@[simp] theorem State.cacheInsert_schedule (s : State) (e : CacheEntry) : (s.cacheInsert e).schedule = s.schedule := rfl
@[simp] theorem State.cacheInsert_hostAnswers (s : State) (e : CacheEntry) : (s.cacheInsert e).hostAnswers = s.hostAnswers := rfl
@[simp] theorem State.cacheInsert_faultRecord (s : State) (e : CacheEntry) : (s.cacheInsert e).faultRecord = s.faultRecord := rfl
@[simp] theorem State.cacheInsert_warnings (s : State) (e : CacheEntry) : (s.cacheInsert e).warnings = s.warnings := rfl
@[simp] theorem State.cacheInsert_runEnd (s : State) (e : CacheEntry) : (s.cacheInsert e).runEnd = s.runEnd := rfl
@[simp] theorem State.cacheInsert_hostOut1 (s : State) (e : CacheEntry) : (s.cacheInsert e).hostOut1 = s.hostOut1 := rfl
@[simp] theorem State.cacheInsert_hostOut2 (s : State) (e : CacheEntry) : (s.cacheInsert e).hostOut2 = s.hostOut2 := rfl
@[simp] theorem State.cacheInsert_draws (s : State) (e : CacheEntry) : (s.cacheInsert e).draws = s.draws := rfl

@[simp] theorem State.setSchedule_tid (s : State) (es : List Event) : (s.setSchedule es).tid = s.tid := rfl
@[simp] theorem State.setSchedule_core (s : State) (es : List Event) : (s.setSchedule es).core = s.core := rfl
@[simp] theorem State.setSchedule_live (s : State) (es : List Event) : (s.setSchedule es).live = s.live := rfl
@[simp] theorem State.setSchedule_isSpeculative (s : State) (es : List Event) : (s.setSchedule es).isSpeculative = s.isSpeculative := rfl
@[simp] theorem State.setSchedule_shadow (s : State) (es : List Event) : (s.setSchedule es).shadow = s.shadow := rfl
@[simp] theorem State.setSchedule_pendingStore (s : State) (es : List Event) : (s.setSchedule es).pendingStore = s.pendingStore := rfl
@[simp] theorem State.setSchedule_others (s : State) (es : List Event) : (s.setSchedule es).others = s.others := rfl
@[simp] theorem State.setSchedule_mem (s : State) (es : List Event) : (s.setSchedule es).mem = s.mem := rfl
@[simp] theorem State.setSchedule_mapped (s : State) (es : List Event) : (s.setSchedule es).mapped = s.mapped := rfl
@[simp] theorem State.setSchedule_decodeCache (s : State) (es : List Event) : (s.setSchedule es).decodeCache = s.decodeCache := rfl
@[simp] theorem State.setSchedule_params (s : State) (es : List Event) : (s.setSchedule es).params = s.params := rfl
@[simp] theorem State.setSchedule_haltPc (s : State) (es : List Event) : (s.setSchedule es).haltPc = s.haltPc := rfl
@[simp] theorem State.setSchedule_schedule (s : State) (es : List Event) : (s.setSchedule es).schedule = es := rfl
@[simp] theorem State.setSchedule_hostAnswers (s : State) (es : List Event) : (s.setSchedule es).hostAnswers = s.hostAnswers := rfl
@[simp] theorem State.setSchedule_faultRecord (s : State) (es : List Event) : (s.setSchedule es).faultRecord = s.faultRecord := rfl
@[simp] theorem State.setSchedule_warnings (s : State) (es : List Event) : (s.setSchedule es).warnings = s.warnings := rfl
@[simp] theorem State.setSchedule_runEnd (s : State) (es : List Event) : (s.setSchedule es).runEnd = s.runEnd := rfl
@[simp] theorem State.setSchedule_hostOut1 (s : State) (es : List Event) : (s.setSchedule es).hostOut1 = s.hostOut1 := rfl
@[simp] theorem State.setSchedule_hostOut2 (s : State) (es : List Event) : (s.setSchedule es).hostOut2 = s.hostOut2 := rfl
@[simp] theorem State.setSchedule_draws (s : State) (es : List Event) : (s.setSchedule es).draws = s.draws := rfl

@[simp] theorem State.setHostAnswers_tid (s : State) (as : List HostAnswer) : (s.setHostAnswers as).tid = s.tid := rfl
@[simp] theorem State.setHostAnswers_core (s : State) (as : List HostAnswer) : (s.setHostAnswers as).core = s.core := rfl
@[simp] theorem State.setHostAnswers_live (s : State) (as : List HostAnswer) : (s.setHostAnswers as).live = s.live := rfl
@[simp] theorem State.setHostAnswers_isSpeculative (s : State) (as : List HostAnswer) : (s.setHostAnswers as).isSpeculative = s.isSpeculative := rfl
@[simp] theorem State.setHostAnswers_shadow (s : State) (as : List HostAnswer) : (s.setHostAnswers as).shadow = s.shadow := rfl
@[simp] theorem State.setHostAnswers_pendingStore (s : State) (as : List HostAnswer) : (s.setHostAnswers as).pendingStore = s.pendingStore := rfl
@[simp] theorem State.setHostAnswers_others (s : State) (as : List HostAnswer) : (s.setHostAnswers as).others = s.others := rfl
@[simp] theorem State.setHostAnswers_mem (s : State) (as : List HostAnswer) : (s.setHostAnswers as).mem = s.mem := rfl
@[simp] theorem State.setHostAnswers_mapped (s : State) (as : List HostAnswer) : (s.setHostAnswers as).mapped = s.mapped := rfl
@[simp] theorem State.setHostAnswers_decodeCache (s : State) (as : List HostAnswer) : (s.setHostAnswers as).decodeCache = s.decodeCache := rfl
@[simp] theorem State.setHostAnswers_params (s : State) (as : List HostAnswer) : (s.setHostAnswers as).params = s.params := rfl
@[simp] theorem State.setHostAnswers_haltPc (s : State) (as : List HostAnswer) : (s.setHostAnswers as).haltPc = s.haltPc := rfl
@[simp] theorem State.setHostAnswers_schedule (s : State) (as : List HostAnswer) : (s.setHostAnswers as).schedule = s.schedule := rfl
@[simp] theorem State.setHostAnswers_hostAnswers (s : State) (as : List HostAnswer) : (s.setHostAnswers as).hostAnswers = as := rfl
@[simp] theorem State.setHostAnswers_faultRecord (s : State) (as : List HostAnswer) : (s.setHostAnswers as).faultRecord = s.faultRecord := rfl
@[simp] theorem State.setHostAnswers_warnings (s : State) (as : List HostAnswer) : (s.setHostAnswers as).warnings = s.warnings := rfl
@[simp] theorem State.setHostAnswers_runEnd (s : State) (as : List HostAnswer) : (s.setHostAnswers as).runEnd = s.runEnd := rfl
@[simp] theorem State.setHostAnswers_hostOut1 (s : State) (as : List HostAnswer) : (s.setHostAnswers as).hostOut1 = s.hostOut1 := rfl
@[simp] theorem State.setHostAnswers_hostOut2 (s : State) (as : List HostAnswer) : (s.setHostAnswers as).hostOut2 = s.hostOut2 := rfl
@[simp] theorem State.setHostAnswers_draws (s : State) (as : List HostAnswer) : (s.setHostAnswers as).draws = s.draws := rfl

@[simp] theorem State.setMapped_tid (s : State) (rs : List Region) : (s.setMapped rs).tid = s.tid := rfl
@[simp] theorem State.setMapped_core (s : State) (rs : List Region) : (s.setMapped rs).core = s.core := rfl
@[simp] theorem State.setMapped_live (s : State) (rs : List Region) : (s.setMapped rs).live = s.live := rfl
@[simp] theorem State.setMapped_isSpeculative (s : State) (rs : List Region) : (s.setMapped rs).isSpeculative = s.isSpeculative := rfl
@[simp] theorem State.setMapped_shadow (s : State) (rs : List Region) : (s.setMapped rs).shadow = s.shadow := rfl
@[simp] theorem State.setMapped_pendingStore (s : State) (rs : List Region) : (s.setMapped rs).pendingStore = s.pendingStore := rfl
@[simp] theorem State.setMapped_others (s : State) (rs : List Region) : (s.setMapped rs).others = s.others := rfl
@[simp] theorem State.setMapped_mem (s : State) (rs : List Region) : (s.setMapped rs).mem = s.mem := rfl
@[simp] theorem State.setMapped_mapped (s : State) (rs : List Region) : (s.setMapped rs).mapped = rs := rfl
@[simp] theorem State.setMapped_decodeCache (s : State) (rs : List Region) : (s.setMapped rs).decodeCache = s.decodeCache := rfl
@[simp] theorem State.setMapped_params (s : State) (rs : List Region) : (s.setMapped rs).params = s.params := rfl
@[simp] theorem State.setMapped_haltPc (s : State) (rs : List Region) : (s.setMapped rs).haltPc = s.haltPc := rfl
@[simp] theorem State.setMapped_schedule (s : State) (rs : List Region) : (s.setMapped rs).schedule = s.schedule := rfl
@[simp] theorem State.setMapped_hostAnswers (s : State) (rs : List Region) : (s.setMapped rs).hostAnswers = s.hostAnswers := rfl
@[simp] theorem State.setMapped_faultRecord (s : State) (rs : List Region) : (s.setMapped rs).faultRecord = s.faultRecord := rfl
@[simp] theorem State.setMapped_warnings (s : State) (rs : List Region) : (s.setMapped rs).warnings = s.warnings := rfl
@[simp] theorem State.setMapped_runEnd (s : State) (rs : List Region) : (s.setMapped rs).runEnd = s.runEnd := rfl
@[simp] theorem State.setMapped_hostOut1 (s : State) (rs : List Region) : (s.setMapped rs).hostOut1 = s.hostOut1 := rfl
@[simp] theorem State.setMapped_hostOut2 (s : State) (rs : List Region) : (s.setMapped rs).hostOut2 = s.hostOut2 := rfl
@[simp] theorem State.setMapped_draws (s : State) (rs : List Region) : (s.setMapped rs).draws = s.draws := rfl

@[simp] theorem State.setPendingStore_tid (s : State) (p : Option PendingStore) : (s.setPendingStore p).tid = s.tid := rfl
@[simp] theorem State.setPendingStore_core (s : State) (p : Option PendingStore) : (s.setPendingStore p).core = s.core := rfl
@[simp] theorem State.setPendingStore_live (s : State) (p : Option PendingStore) : (s.setPendingStore p).live = s.live := rfl
@[simp] theorem State.setPendingStore_isSpeculative (s : State) (p : Option PendingStore) : (s.setPendingStore p).isSpeculative = s.isSpeculative := rfl
@[simp] theorem State.setPendingStore_shadow (s : State) (p : Option PendingStore) : (s.setPendingStore p).shadow = s.shadow := rfl
@[simp] theorem State.setPendingStore_pendingStore (s : State) (p : Option PendingStore) : (s.setPendingStore p).pendingStore = p := rfl
@[simp] theorem State.setPendingStore_others (s : State) (p : Option PendingStore) : (s.setPendingStore p).others = s.others := rfl
@[simp] theorem State.setPendingStore_mem (s : State) (p : Option PendingStore) : (s.setPendingStore p).mem = s.mem := rfl
@[simp] theorem State.setPendingStore_mapped (s : State) (p : Option PendingStore) : (s.setPendingStore p).mapped = s.mapped := rfl
@[simp] theorem State.setPendingStore_decodeCache (s : State) (p : Option PendingStore) : (s.setPendingStore p).decodeCache = s.decodeCache := rfl
@[simp] theorem State.setPendingStore_params (s : State) (p : Option PendingStore) : (s.setPendingStore p).params = s.params := rfl
@[simp] theorem State.setPendingStore_haltPc (s : State) (p : Option PendingStore) : (s.setPendingStore p).haltPc = s.haltPc := rfl
@[simp] theorem State.setPendingStore_schedule (s : State) (p : Option PendingStore) : (s.setPendingStore p).schedule = s.schedule := rfl
@[simp] theorem State.setPendingStore_hostAnswers (s : State) (p : Option PendingStore) : (s.setPendingStore p).hostAnswers = s.hostAnswers := rfl
@[simp] theorem State.setPendingStore_faultRecord (s : State) (p : Option PendingStore) : (s.setPendingStore p).faultRecord = s.faultRecord := rfl
@[simp] theorem State.setPendingStore_warnings (s : State) (p : Option PendingStore) : (s.setPendingStore p).warnings = s.warnings := rfl
@[simp] theorem State.setPendingStore_runEnd (s : State) (p : Option PendingStore) : (s.setPendingStore p).runEnd = s.runEnd := rfl
@[simp] theorem State.setPendingStore_hostOut1 (s : State) (p : Option PendingStore) : (s.setPendingStore p).hostOut1 = s.hostOut1 := rfl
@[simp] theorem State.setPendingStore_hostOut2 (s : State) (p : Option PendingStore) : (s.setPendingStore p).hostOut2 = s.hostOut2 := rfl
@[simp] theorem State.setPendingStore_draws (s : State) (p : Option PendingStore) : (s.setPendingStore p).draws = s.draws := rfl

end Sys2Proof.Machine
end

