-- ==== Sys2Proof/Laws/Ops.lean ====
section
/-! SUPPORT. What each shared operation does, once, case by case: cited instead of unfolding it. -/

namespace Sys2Proof.Machine

/-! ## Faults and the end of a run -/

/-- The record is set where it was empty (R370). -/
theorem raise_of_none {s : State} (f : Fault) (h : s.faultRecord = none) :
    raise f s = .next { s with faultRecord := some f } := by
  simp [raise, State.recordFault, h]

/-- A record that is set stays (R370). -/
theorem recordFault_of_some {s : State} {f : Fault} (g : Fault) (h : s.faultRecord = some f) : s.recordFault g = s := by
  cases s; simp_all [State.recordFault]

/-- A run goes on exactly while it has neither a fault nor an end. -/
theorem answerIfEnded_eq_none {s : State} : s.answerIfEnded = none ↔ s.faultRecord = none ∧ s.runEnd = none := by
  unfold State.answerIfEnded
  rcases s.runEnd with _ | ⟨_ | _ | _⟩ <;> rcases s.faultRecord with _ | f <;> simp

/-- `stopped` is the Bool of the same condition. -/
theorem stopped_eq_false {s : State} : s.stopped = false ↔ s.faultRecord = none ∧ s.runEnd = none := by
  unfold State.stopped
  rcases s.runEnd with _ | _ <;> rcases s.faultRecord with _ | _ <;> simp

/-- The counters advance where the run goes on (R28). -/
theorem finishStep_running {s : State} (hf : s.faultRecord = none) (he : s.runEnd = none) (hp : s.pendingStore = none) :
    finishStep (.next s) = .next s.advance := by
  simp [finishStep, stopped_eq_false.2 ⟨hf, he⟩, hp]

/-- They stay where the instruction has still to store (R68). -/
theorem finishStep_pending {s : State} {p : PendingStore} (h : s.pendingStore = some p) :
    finishStep (.next s) = .next s := by
  simp [finishStep, h]

/-- They stay where it stopped (R376). -/
theorem finishStep_stopped {s : State} (h : ¬(s.faultRecord = none ∧ s.runEnd = none)) :
    finishStep (.next s) = .next s := by
  have : s.stopped = true := by
    cases e : s.stopped
    · exact absurd (stopped_eq_false.1 e) h
    · rfl
  simp [finishStep, this]

/-! ## Data accesses -/

/-- `rangeMapped`, byte by byte. -/
theorem rangeMapped_iff {s : State} {a : Word} {n : Nat} :
    s.rangeMapped a n = true ↔ ∀ i < n, s.isMapped (a + BitVec.ofNat 32 i) = true := by
  simp [State.rangeMapped]

/-- Whether an access faults rests on the mapping, and its fault on the pc. -/
theorem accessFault_congr {s t : State} {a : Word} {n : Nat} (hm : t.mapped = s.mapped) (hp : t.live.pc = s.live.pc) :
    t.accessFault a n = s.accessFault a n := by
  have hr : t.rangeMapped a n = s.rangeMapped a n := by simp only [State.rangeMapped, State.isMapped, hm]
  unfold State.accessFault
  rw [hr, hp]

/-- An access that checks out runs on the state with `ea` written (R241). -/
theorem accessing_ok {s : State} {a : Word} {n : Nat} {k : State → Res} (h : s.accessFault a n = none) :
    s.accessing a n k = k (s.setEa a) := by
  simp [State.accessing, h]

/-- An access that faults writes `ea` and nothing else (R243). -/
theorem accessing_fault {s : State} {a : Word} {n : Nat} {k : State → Res} {f : Fault}
    (h : s.accessFault a n = some f) : s.accessing a n k = raise f (s.setEa a) := by
  simp [State.accessing, h]

/-! ## Fetch and the decode cache -/

/-- The entry inserted is the one found at its address, in its core's cache. -/
theorem cacheLookup_cacheInsert (s : State) (e : CacheEntry) (p : Word) :
    (s.cacheInsert e).cacheLookup p = if e.core = s.core ∧ e.addr = p then some e.inst else s.cacheLookup p := by
  simp only [State.cacheLookup, State.cacheInsert, List.find?_cons]
  by_cases hc : e.core = s.core <;> by_cases ha : e.addr = p <;> simp [hc, ha] <;> rfl

/-- A hit. -/
theorem decodeAt_hit {s : State} {pc : Word} {inst : StaticInst} (h : s.cacheLookup pc = some inst) :
    s.decodeAt pc = .ok (inst, s) := by
  simp [State.decodeAt, h]

/-- A miss whose fetch faults. -/
theorem decodeAt_fault {s : State} {pc : Word} {f : Fault} (h : s.cacheLookup pc = none)
    (hf : s.fetchFault pc = some f) : s.decodeAt pc = .error f := by
  simp [State.decodeAt, h, hf]

/-- A miss whose fetch succeeds. -/
theorem decodeAt_miss {s : State} {pc : Word} (h : s.cacheLookup pc = none) (hf : s.fetchFault pc = none) :
    s.decodeAt pc = .ok (decodeStatic (s.mem.wordAt pc), s.cacheInsert ⟨s.core, pc, decodeStatic (s.mem.wordAt pc)⟩) := by
  simp [State.decodeAt, h, hf]

/-- What a decode that succeeds leaves: the state, with at most one entry more in its cache. -/
theorem decodeAt_ok {s t : State} {pc : Word} {inst : StaticInst} (h : s.decodeAt pc = .ok (inst, t)) :
    (t = s ∧ s.cacheLookup pc = some inst) ∨
      (s.cacheLookup pc = none ∧ s.fetchFault pc = none ∧
        inst = decodeStatic (s.mem.wordAt pc) ∧ t = s.cacheInsert ⟨s.core, pc, inst⟩) := by
  unfold State.decodeAt at h
  split at h
  · simp_all
  · split at h
    · simp at h
    · simp only [Except.ok.injEq, Prod.mk.injEq] at h
      obtain ⟨rfl, rfl⟩ := h
      exact Or.inr ⟨by assumption, by assumption, rfl, rfl⟩

/-! ## The step -/

/-- A running machine takes its next step. -/
theorem step_running {s : State} (hf : s.faultRecord = none) (he : s.runEnd = none) : step s = s.proceed := by
  simp [step, answerIfEnded_eq_none.2 ⟨hf, he⟩]

/-- With no schedule a running machine steps its thread. -/
theorem step_eq_stepThread {s : State} (hf : s.faultRecord = none) (he : s.runEnd = none) (hs : s.schedule = []) :
    step s = stepThread s := by
  rw [step_running hf he, State.proceed, hs]

/-- With a schedule it serves the next request, in the thread the request is made to. -/
theorem step_eq_serve {s t : State} {e : Event} {rest : List Event} (hf : s.faultRecord = none) (he : s.runEnd = none)
    (hs : s.schedule = e :: rest) (ht : s.selectThread e.thread = some t) : step s = (t.setSchedule rest).serve e := by
  rw [step_running hf he, State.proceed, hs]
  simp only [ht]

/-- A request to a thread that is not there is refused. -/
theorem step_noSuchThread {s : State} {e : Event} {rest : List Event} (hf : s.faultRecord = none) (he : s.runEnd = none)
    (hs : s.schedule = e :: rest) (ht : s.selectThread e.thread = none) :
    step s = .refused (.noSuchThread e.thread) := by
  rw [step_running hf he, State.proceed, hs]
  simp only [ht]

/-- A thread whose decode succeeds executes the leaf with cell 0 zeroed. -/
theorem stepWith_decoded {execute : StaticInst → State → Res} {s t : State} {inst : StaticInst}
    (hp : s.pendingStore = none) (hh : s.haltPc ≠ some s.live.pc) (hd : s.decode = .ok (inst, t)) :
    stepWith execute s = finishStep (execute inst t.clearZero) := by
  simp [stepWith, hp, hh, hd]

/-- A thread whose fetch faults records the fault. -/
theorem stepWith_fetchFault {execute : StaticInst → State → Res} {s : State} {f : Fault} (hp : s.pendingStore = none)
    (hh : s.haltPc ≠ some s.live.pc) (hd : s.decode = .error f) : stepWith execute s = raise f s := by
  simp [stepWith, hp, hh, hd]

/-- A thread that has still to store does that, however it is asked to step (R68). -/
theorem stepWith_pending {execute : StaticInst → State → Res} {s : State} {p : PendingStore}
    (hp : s.pendingStore = some p) : stepWith execute s = finishStep (finishStore p s) := by
  simp [stepWith, hp]

/-- The two halves of a partial-word store, one after the other, are the whole of it (R68). -/
theorem beginStore_finishStore (merge : Word → Word → Nat → Word) (rt base : Reg) (offset : BitVec 16) {s : State}
    (hp : s.pendingStore = none) (h : s.accessFault (alignWord (s.effAddr base offset)) 4 = none) :
    ∃ p t, beginStore merge rt base offset s = .next t ∧ t.pendingStore = some p ∧
      finishStore p t = storePartial merge rt base offset s := by
  refine ⟨⟨alignWord (s.effAddr base offset), merge (s.mem.wordAt (alignWord (s.effAddr base offset))) (s.reg rt)
    (byteOffset (s.effAddr base offset))⟩, _, by unfold beginStore; exact accessing_ok h, rfl, ?_⟩
  unfold finishStore storePartial
  dsimp only
  have e (p : Option PendingStore) (a : Word) : ((s.setEa a).setPendingStore p).accessFault a 4 = s.accessFault a 4 :=
    accessFault_congr rfl rfl
  rw [e, h, accessing_ok h]
  cases s
  cases hp
  rfl

/-! ## Branches -/

/-- No clash: the instruction goes on. -/
theorem unlessClash_false (mode : Config.LinkClash) (n : String) (s : State) (k : Res) :
    unlessClash false mode n s k = k := by cases mode <;> rfl

/-- A clash under `readFirst`: the instruction goes on. -/
theorem unlessClash_readFirst (c : Bool) (n : String) (s : State) (k : Res) :
    unlessClash c .readFirst n s k = k := by cases c <;> rfl

/-- A clash under `fault`: UNPREDICTABLE_OPERANDS before any write (R214, R223). -/
theorem unlessClash_fault (n : String) (s : State) (k : Res) :
    unlessClash true .fault n s k = raise (.unpredictableOperands s.live.pc n) s := rfl

/-! ## Traps -/

/-- TRAP_MODE = conditional, the condition holds. -/
theorem trapIf_true {s : State} (n : String) (h : s.params.trapMode = .conditional) :
    trapIf true n s = raise (.trap s.live.pc n) s := by simp [trapIf, h]

/-- TRAP_MODE = conditional, the condition does not hold. -/
theorem trapIf_false {s : State} (n : String) (h : s.params.trapMode = .conditional) :
    trapIf false n s = .next s := by simp [trapIf, h]

/-- TRAP_MODE = unimplemented. -/
theorem trapIf_unimplemented {s : State} (c : Bool) (n : String) (h : s.params.trapMode = .unimplemented) :
    trapIf c n s = raise (.unimplemented s.live.pc .generic n) s := by simp [trapIf, h]

/-! ## The pairs of float words and the condition bits -/

/-- A float word after a write of a pair (R34). -/
theorem fw_setFl (s : State) (i k : Reg) (v : DWord) :
    (s.setFl i v).fw k =
      if k = pairHigh i then v.extractLsb' 32 32 else if k = pairLow i then v.extractLsb' 0 32 else s.fw k := by
  simp [State.fw, State.setFl, State.setFw, Regs.getFw_setFw]

/-- A pair read after a write of it. -/
@[simp] theorem fl_setFl_self (s : State) (i : Reg) (v : DWord) : (s.setFl i v).fl i = v := by
  have h := pairLow_ne_pairHigh i
  simp only [State.fl, fw_setFl, if_true, h, if_false]
  apply BitVec.eq_of_getLsbD_eq
  intro k hk
  simp only [BitVec.getLsbD_append, BitVec.getLsbD_extractLsb']
  split_ifs <;> (rw [decide_eq_true (by omega), Bool.true_and]; congr 1; omega)

/-- `FCC(n)` after a write of it (R30). -/
@[simp] theorem fccOf_fcsrWith (w : Word) (n : BitVec 3) (b : Bool) : fccOf (fcsrWith w n b) n = b := by
  have h : fccBit n < 32 := by revert n; decide
  cases b <;> simp [fccOf, fcsrWith, fccMask, h]

/-- Every other bit of fcsr after a write of `FCC(n)` (R30). -/
theorem getLsbD_fcsrWith_ne (w : Word) (n : BitVec 3) (b : Bool) {k : Nat} (h : k ≠ fccBit n) :
    (fcsrWith w n b).getLsbD k = w.getLsbD k := by
  have e : ∀ j : Nat, j ≠ 0 → (1#32).getLsbD j = false := fun j hj => by simp [hj]
  by_cases hk : k < 32
  · have : (fccMask n).getLsbD k = false := by
      simp only [fccMask, BitVec.getLsbD_shiftLeft, hk, decide_true, Bool.true_and]
      by_cases hl : k < fccBit n
      · simp [hl]
      · simp [hl, e (k - fccBit n) (by omega)]
    rw [BitVec.getLsbD_eq_getElem hk] at this
    cases b <;> simp [fcsrWith, this, hk]
  · have hk : 32 ≤ k := by omega
    rw [BitVec.getLsbD_of_ge _ _ hk, BitVec.getLsbD_of_ge _ _ hk]

/-! ## The host -/

/-- The host's bytes where every one is mapped (R341): a byte access is never misaligned. -/
theorem hostBytes_ok (s : State) : ∀ (n : Nat) (a : Word), (∀ i < n, s.isMapped (a + BitVec.ofNat 32 i) = true) →
    s.hostBytes a n = .ok ((List.range n).map fun i => s.mem.byteAt (a + BitVec.ofNat 32 i))
  | 0, _, _ => rfl
  | n + 1, a, h => by
    have ha : s.accessFault a 1 = none := by
      have h0 := h 0 (by omega)
      simp only [BitVec.add_zero] at h0
      have : s.rangeMapped a 1 = true := rangeMapped_iff.2 (fun i hi => by
        have : i = 0 := by omega
        subst this; simpa using h0)
      simp [State.accessFault, Nat.mod_one, this]
    have hs (i : Nat) : a + 1 + BitVec.ofNat 32 i = a + BitVec.ofNat 32 (i + 1) := by
      rw [BitVec.add_assoc, BitVec.add_comm 1, BitVec.ofNat_add]
      rfl
    have ih := hostBytes_ok s n (a + 1) (fun i hi => by rw [hs]; exact h (i + 1) (by omega))
    rw [State.hostBytes, ha]
    simp only [ih, List.range_succ_eq_map, List.map_cons, List.map_map]
    simp only [BitVec.add_zero, BitVec.ofNat_eq_ofNat, Except.ok.injEq, List.cons.injEq, true_and]
    exact List.map_congr_left fun i _ => congrArg s.mem.byteAt (hs i)

/-- The first faulting access is none where every access checks out. -/
theorem firstAccessFault_eq_none {s : State} {as : List (Word × Nat)} :
    s.firstAccessFault as = none ↔ ∀ p ∈ as, s.accessFault p.1 p.2 = none := by
  induction as with
  | nil => simp [State.firstAccessFault]
  | cons p rest ih =>
    rw [State.firstAccessFault]
    cases h : s.accessFault p.1 p.2 <;> simp [h, ih]

/-- With no answer given, a system call goes by the default table. -/
theorem execSyscall_default (code : BitVec 20) {s : State} (h : s.hostAnswers = []) :
    execSyscall code s = hostCall (s.reg 2) s := by
  simp [execSyscall, h]

/-- With one, it goes by that. -/
theorem execSyscall_answered (code : BitVec 20) {s : State} {a : HostAnswer} {rest : List HostAnswer}
    (h : s.hostAnswers = a :: rest) : execSyscall code s = hostAnswered a rest (s.reg 2) s := by
  simp [execSyscall, h]

/-! ## Floating-point results -/

/-- Under the default FP_ARITH a single number is the encoding computed (R281). -/
theorem writeSingle_some {s : State} (c : Config.FpCall) (fd : Reg) (bits : Nat) (h : s.params.fpArith = []) :
    writeSingle c fd (some bits) s = .next (s.setFw fd (BitVec.ofNat 32 bits)) := by
  simp [writeSingle, h]

/-- Under the default FP_ARITH a double number is the encoding computed (R281). -/
theorem writeDouble_some {s : State} (c : Config.FpCall) (fd : Reg) (bits : Nat) (h : s.params.fpArith = []) :
    writeDouble c fd (some bits) s = .next (s.setFl fd (BitVec.ofNat 64 bits)) := by
  simp [writeDouble, h]

/-! ## Speculation and threads -/

/-- Leaving speculative mode restores the snapshot (R39). -/
theorem setSpeculative_false {s : State} (h : s.isSpeculative = true) :
    s.setSpeculative false = { s with live := s.shadow, isSpeculative := false } := by
  simp [State.setSpeculative, h]

/-- Entering it takes a snapshot (R38). -/
theorem setSpeculative_true {s : State} (h : s.isSpeculative = false) :
    s.setSpeculative true = { s with shadow := s.live, isSpeculative := true } := by
  simp [State.setSpeculative, h]

/-- The thread selected is the one about to step, and the rest of the machine is as it was. -/
theorem selectThread_some {s u : State} {tid : Nat} (h : s.selectThread tid = some u) :
    (s.tid = tid ∧ u = s) ∨ (s.tid ≠ tid ∧ ∃ t ∈ s.others, t.tid = tid ∧ u = s.swapIn t) := by
  unfold State.selectThread at h
  split at h
  · exact .inl ⟨by assumption, (Option.some.inj h).symm⟩
  · right
    obtain ⟨t, ht, rfl⟩ := Option.map_eq_some_iff.1 h
    exact ⟨by assumption, t, List.mem_of_find?_eq_some ht, by simpa using List.find?_some ht, rfl⟩

/-- A thread that is there is found. -/
theorem selectThread_isSome {s : State} {tid : Nat} (h : s.tid = tid ∨ ∃ t ∈ s.others, t.tid = tid) :
    (s.selectThread tid).isSome = true := by
  unfold State.selectThread
  split
  · rfl
  · simp only [Option.isSome_map, List.find?_isSome, decide_eq_true_eq]
    rcases h with h | h
    · contradiction
    · exact h

end Sys2Proof.Machine
end

