-- ==== Sys2Proof/Laws/Exec.lean ====
section
/-! SUPPORT. What every instruction has in common: it answers a next state, and what it leaves alone. -/

namespace Sys2Proof.Machine

/-- What no instruction changes, with no host answer given what only the host changes, and that the memory's canonical
form is kept. -/
structure Fixed (s t : State) : Prop where
  pc : t.live.pc = s.live.pc
  thread : t.tid = s.tid ∧ t.core = s.core ∧ t.isSpeculative = s.isSpeculative ∧ t.shadow = s.shadow ∧
    t.pendingStore = s.pendingStore
  outside : t.others = s.others ∧ t.decodeCache = s.decodeCache ∧ t.params = s.params ∧ t.haltPc = s.haltPc ∧
    t.schedule = s.schedule
  host : s.hostAnswers = [] → t.hostAnswers = [] ∧ t.mapped = s.mapped
  memory : s.mem.wf = true → t.mem.wf = true

/-- A result that is a next state with what is fixed unchanged. -/
def Fixes (s : State) (r : Res) : Prop := ∃ t, r = .next t ∧ Fixed s t

/-- Nothing changed. -/
theorem Fixed.rfl' (s : State) : Fixed s s := ⟨rfl, ⟨rfl, rfl, rfl, rfl, rfl⟩, ⟨rfl, rfl, rfl, rfl, rfl⟩, fun e => ⟨e, rfl⟩, id⟩

/-- One change after another. -/
theorem Fixed.trans {s t u : State} (h : Fixed s t) (k : Fixed t u) : Fixed s u := by
  obtain ⟨h1, ⟨h2, h3, h4, h5, h6⟩, ⟨h7, h8, h9, h10, h11⟩, h12, h13⟩ := h
  obtain ⟨k1, ⟨k2, k3, k4, k5, k6⟩, ⟨k7, k8, k9, k10, k11⟩, k12, k13⟩ := k
  exact ⟨k1.trans h1, ⟨k2.trans h2, k3.trans h3, k4.trans h4, k5.trans h5, k6.trans h6⟩,
    ⟨k7.trans h7, k8.trans h8, k9.trans h9, k10.trans h10, k11.trans h11⟩,
    fun e => ⟨(k12 (h12 e).1).1, (k12 (h12 e).1).2.trans (h12 e).2⟩, fun h => k13 (h13 h)⟩

/-- The live registers replaced by ones of the same pc. -/
theorem Fixed.setLive {s : State} {r : Regs} (h : r.pc = s.live.pc) : Fixed s (s.setLive r) :=
  ⟨h, ⟨rfl, rfl, rfl, rfl, rfl⟩, ⟨rfl, rfl, rfl, rfl, rfl⟩, fun e => ⟨e, rfl⟩, id⟩

/-- `ea` written. -/
theorem Fixed.setEa (s : State) (a : Word) : Fixed s (s.setEa a) := .setLive rfl

/-- A register written. -/
theorem Fixed.setReg (s : State) (i : Reg) (v : Word) : Fixed s (s.setReg i v) := .setLive rfl

/-- A float word written. -/
theorem Fixed.setFw (s : State) (i : Reg) (v : Word) : Fixed s (s.setFw i v) := .setLive rfl

/-- The memory replaced by one whose canonical form is kept. -/
theorem Fixed.setMem {s : State} {m : Memory} (h : s.mem.wf = true → m.wf = true) : Fixed s (s.setMem m) :=
  ⟨rfl, ⟨rfl, rfl, rfl, rfl, rfl⟩, ⟨rfl, rfl, rfl, rfl, rfl⟩, fun e => ⟨e, rfl⟩, h⟩

/-- A result that is a next state. -/
theorem Fixes.next {s t : State} (h : Fixed s t) : Fixes s (.next t) := ⟨t, rfl, h⟩

/-- A step back over a change. -/
theorem Fixes.after {s t : State} {r : Res} (h : Fixed s t) (k : Fixes t r) : Fixes s r := by
  obtain ⟨u, e, k⟩ := k
  exact ⟨u, e, h.trans k⟩

/-! ## The shared operations -/

theorem fixes_raise (f : Fault) (s : State) : Fixes s (raise f s) :=
  .next ⟨rfl, ⟨rfl, rfl, rfl, rfl, rfl⟩, ⟨rfl, rfl, rfl, rfl, rfl⟩, fun e => ⟨e, rfl⟩, id⟩

theorem fixes_aluReg (f : Word → Word → Word) (rd rs rt : Reg) (s : State) : Fixes s (aluReg f rd rs rt s) :=
  .next (.setLive rfl)

theorem fixes_aluImm (f : Word → Word → Word) (rt rs : Reg) (k : Word) (s : State) : Fixes s (aluImm f rt rs k s) :=
  .next (.setLive rfl)

theorem fixes_shiftBy (f : Word → Nat → Word) (rd rt : Reg) (n : Nat) (s : State) : Fixes s (shiftBy f rd rt n s) :=
  .next (.setLive rfl)

theorem fixes_warnedWrite (n : String) (d : Reg) (r : Int) (s : State) : Fixes s (warnedWrite n d r s) := by
  unfold warnedWrite State.warnOverflow
  split
  · exact .next (.trans (t := s.warn n) ⟨rfl, ⟨rfl, rfl, rfl, rfl, rfl⟩, ⟨rfl, rfl, rfl, rfl, rfl⟩, fun e => ⟨e, rfl⟩, id⟩ (.setLive rfl))
  · exact .next (.setLive rfl)

theorem fixes_writeProduct (p : Int) (s : State) : Fixes s (writeProduct p s) := .next ((Fixed.setLive rfl).trans (.setLive rfl))

theorem fixed_setHiLo (h l : Word) (s : State) : Fixed s (s.setHiLo h l) := (Fixed.setLive rfl).trans (.setLive rfl)

theorem fixed_useDraws (n : Nat) (s : State) : Fixed s (s.useDraws n) :=
  ⟨rfl, ⟨rfl, rfl, rfl, rfl, rfl⟩, ⟨rfl, rfl, rfl, rfl, rfl⟩, fun e => ⟨e, rfl⟩, id⟩

theorem fixes_divideByZero (n : String) (s : State) : Fixes s (divideByZero n s) := by
  unfold divideByZero
  split
  · exact fixes_raise _ _
  · exact .next ((fixed_setHiLo _ _ _).trans (fixed_useDraws _ _))

theorem fixes_execDiv (rs rt : Reg) (s : State) : Fixes s (execDiv rs rt s) := by
  simp only [execDiv]
  split
  · exact fixes_divideByZero _ _
  · split
    · unfold divideOverflow
      split
      · exact fixes_raise _ _
      · exact .next (fixed_setHiLo _ _ _)
    · exact .next (fixed_setHiLo _ _ _)

theorem fixes_execDivu (rs rt : Reg) (s : State) : Fixes s (execDivu rs rt s) := by
  simp only [execDivu]
  split
  · exact fixes_divideByZero _ _
  · exact .next (fixed_setHiLo _ _ _)

theorem fixes_branchIf (c : Bool) (o : BitVec 16) (s : State) : Fixes s (branchIf c o s) := by
  unfold branchIf
  cases c
  · exact .next (.rfl' s)
  · exact .next (.setLive rfl)

theorem fixes_branchLikelyIf (c : Bool) (o : BitVec 16) (s : State) : Fixes s (branchLikelyIf c o s) := by
  unfold branchLikelyIf
  cases c
  · exact .next ((Fixed.setLive rfl).trans (.setLive rfl))
  · exact .next (.setLive rfl)

theorem fixed_linkThenJump (l : Reg) (a : Word) (s : State) : Fixed s (linkThenJump l a s) :=
  (Fixed.setLive rfl).trans (.setLive rfl)

theorem fixes_linkThenBranchIf (c : Bool) (o : BitVec 16) (s : State) : Fixes s (linkThenBranchIf c o s) := by
  unfold linkThenBranchIf
  cases c
  · exact .next (.setLive rfl)
  · exact .next (fixed_linkThenJump _ _ _)

theorem fixes_unlessClash {c : Bool} {m : Config.LinkClash} {n : String} {s : State} {k : Res} (h : Fixes s k) :
    Fixes s (unlessClash c m n s k) := by
  cases c <;> cases m <;> first | exact h | exact fixes_raise _ _

theorem fixes_accessing {s : State} {a : Word} {n : Nat} {k : State → Res} (h : Fixes (s.setEa a) (k (s.setEa a))) :
    Fixes s (s.accessing a n k) := by
  unfold State.accessing
  split
  · exact (fixes_raise _ _).after (.setEa s a)
  · exact h.after (.setEa s a)

theorem fixes_loadReg (n : Nat) (v : Memory → Word → Word) (rt base : Reg) (o : BitVec 16) (s : State) :
    Fixes s (loadReg n v rt base o s) := by
  unfold loadReg
  exact fixes_accessing (.next (.setReg _ _ _))

theorem fixes_loadPartial (f : Word → Word → Nat → Word) (rt base : Reg) (o : BitVec 16) (s : State) :
    Fixes s (loadPartial f rt base o s) := by
  unfold loadPartial
  exact fixes_accessing (.next (.setReg _ _ _))

theorem fixed_setFl (i : Reg) (v : DWord) (s : State) : Fixed s (s.setFl i v) := (Fixed.setLive rfl).trans (.setLive rfl)

theorem fixes_storeMem {n : Nat} {f : Memory → Word → Memory} (base : Reg) (o : BitVec 16) (s : State)
    (h : ∀ m a, m.wf = true → (f m a).wf = true) : Fixes s (storeMem n f base o s) := by
  unfold storeMem
  exact fixes_accessing (.next (.setMem (h _ _)))

theorem fixes_storePartial (f : Word → Word → Nat → Word) (rt base : Reg) (o : BitVec 16) (s : State) :
    Fixes s (storePartial f rt base o s) := by
  unfold storePartial
  exact fixes_accessing (.next (.setMem (Memory.wf_setWord _ _)))

theorem fixes_writeSingle (c : Config.FpCall) (fd : Reg) (r : Option Nat) (s : State) : Fixes s (writeSingle c fd r s) := by
  unfold writeSingle
  split
  · exact .next (.setLive rfl)
  · split
    · exact .next (.setLive rfl)
    · exact .next ((Fixed.setFw _ _ _).trans (fixed_useDraws _ _))

theorem fixes_writeDouble (c : Config.FpCall) (fd : Reg) (r : Option Nat) (s : State) : Fixes s (writeDouble c fd r s) := by
  unfold writeDouble
  split
  · exact .next (fixed_setFl _ _ _)
  · split
    · exact .next (fixed_setFl _ _ _)
    · exact .next ((fixed_setFl _ _ _).trans (fixed_useDraws _ _))

theorem fixes_writeInt32 (c : Config.FpCall) (fd : Reg) (r : Option Int) (s : State) : Fixes s (writeInt32 c fd r s) := by
  unfold writeInt32
  split
  · exact .next (.setLive rfl)
  · split
    · exact .next (.setLive rfl)
    · exact .next ((Fixed.setFw _ _ _).trans (fixed_useDraws _ _))

theorem fixes_writeInt64 (c : Config.FpCall) (fd : Reg) (r : Option Int) (s : State) : Fixes s (writeInt64 c fd r s) := by
  unfold writeInt64
  split
  · exact .next (fixed_setFl _ _ _)
  · split
    · exact .next (fixed_setFl _ _ _)
    · exact .next ((fixed_setFl _ _ _).trans (fixed_useDraws _ _))

theorem fixes_ungated (n : String) (s : State) : Fixes s (ungated n s) := by
  unfold ungated
  split
  · exact .next (.rfl' s)
  · exact fixes_raise _ _

theorem fixes_execCfc1 (rt fs : Reg) (s : State) : Fixes s (execCfc1 rt fs s) := by
  unfold execCfc1
  split
  · exact .next (.setLive rfl)
  · exact fixes_ungated _ _

theorem fixes_execCtc1 (rt fs : Reg) (s : State) : Fixes s (execCtc1 rt fs s) := by
  unfold execCtc1
  split
  · exact .next (.setLive rfl)
  · exact fixes_ungated _ _

theorem fixes_trapIf (c : Bool) (n : String) (s : State) : Fixes s (trapIf c n s) := by
  unfold trapIf
  split
  · cases c
    · exact .next (.rfl' s)
    · exact fixes_raise _ _
  · exact fixes_raise _ _

theorem fixes_execSync (n : BitVec 5) (s : State) : Fixes s (execSync n s) := by
  unfold execSync
  split
  · exact fixes_raise _ _
  · exact .next (.rfl' s)

theorem fixed_setSyscallResult (a b : Word) (s : State) : Fixed s (s.setSyscallResult a b) :=
  (Fixed.setLive rfl).trans (.setLive rfl)

theorem fixed_endRun (e : RunEnd) (s : State) : Fixed s (s.endRun e) :=
  ⟨rfl, ⟨rfl, rfl, rfl, rfl, rfl⟩, ⟨rfl, rfl, rfl, rfl, rfl⟩, fun e => ⟨e, rfl⟩, id⟩

theorem fixes_hostWriteTo {f : State → List Byte → State} (s : State) (h : ∀ b, Fixed s (f s b)) :
    Fixes s (hostWriteTo f s) := by
  unfold hostWriteTo
  split
  · exact .next ((h _).trans (fixed_setSyscallResult _ _ _))
  · exact fixes_raise _ _

theorem fixes_hostWrite (s : State) : Fixes s (hostWrite s) := by
  unfold hostWrite
  split
  · exact fixes_hostWriteTo s fun _ => ⟨rfl, ⟨rfl, rfl, rfl, rfl, rfl⟩, ⟨rfl, rfl, rfl, rfl, rfl⟩, fun e => ⟨e, rfl⟩, id⟩
  · split
    · exact fixes_hostWriteTo s fun _ => ⟨rfl, ⟨rfl, rfl, rfl, rfl, rfl⟩, ⟨rfl, rfl, rfl, rfl, rfl⟩, fun e => ⟨e, rfl⟩, id⟩
    · exact .next (fixed_setSyscallResult _ _ _)

theorem fixes_hostCall (n : Word) (s : State) : Fixes s (hostCall n s) := by
  unfold hostCall
  split
  · exact .next (fixed_endRun _ _)
  · exact .next (fixed_endRun _ _)
  · exact fixes_hostWrite s
  · exact .next (fixed_endRun _ _)

/-- The one way an instruction changes the mapping or takes an answer: a system call the host answers. -/
theorem fixes_hostAnswered (a : HostAnswer) (rest : List HostAnswer) (n : Word) {s : State} (h : s.hostAnswers ≠ []) :
    Fixes s (hostAnswered a rest n s) := by
  unfold hostAnswered
  split
  · exact .next (fixed_endRun _ _)
  · exact .next (fixed_endRun _ _)
  · split
    · exact fixes_raise _ _
    · exact .next ⟨(Regs.setAll_counters _ _).1, ⟨rfl, rfl, rfl, rfl, rfl⟩, ⟨rfl, rfl, rfl, rfl, rfl⟩, fun e => absurd e h,
        Memory.wf_setBytes _⟩

theorem fixes_execSyscall (n : BitVec 20) (s : State) : Fixes s (execSyscall n s) := by
  unfold execSyscall
  split
  · exact fixes_hostCall _ s
  · exact fixes_hostAnswered _ _ _ (by simp_all)

/-! ## Every instruction -/

/-- Every instruction answers a next state, and leaves what is fixed alone. -/
theorem exec_fixes (i : Instr) (s : State) : Fixes s (exec i s) :=
  match i with
  | .nop .. => .next (.rfl' s)
  | .sll .. => fixes_shiftBy _ _ _ _ s
  | .srl .. => fixes_shiftBy _ _ _ _ s
  | .sra .. => fixes_shiftBy _ _ _ _ s
  | .sllv .. => fixes_shiftBy _ _ _ _ s
  | .srlv .. => fixes_shiftBy _ _ _ _ s
  | .srav .. => fixes_shiftBy _ _ _ _ s
  | .jr .. => .next (.setLive rfl)
  | .jalr .. => fixes_unlessClash (.next (fixed_linkThenJump _ _ s))
  | .syscall .. => fixes_execSyscall 0 s
  | .brk .. => fixes_raise _ s
  | .sync .. => fixes_execSync 0 s
  | .mfhi .. => .next (.setLive rfl)
  | .mthi .. => .next (.setLive rfl)
  | .mflo .. => .next (.setLive rfl)
  | .mtlo .. => .next (.setLive rfl)
  | .mult .. => fixes_writeProduct _ s
  | .multu .. => fixes_writeProduct _ s
  | .div .. => fixes_execDiv _ _ s
  | .divu .. => fixes_execDivu _ _ s
  | .add .. => fixes_warnedWrite _ _ _ s
  | .addu .. => fixes_aluReg _ _ _ _ s
  | .sub .. => fixes_warnedWrite _ _ _ s
  | .subu .. => fixes_aluReg _ _ _ _ s
  | .and .. => fixes_aluReg _ _ _ _ s
  | .or .. => fixes_aluReg _ _ _ _ s
  | .xor .. => fixes_aluReg _ _ _ _ s
  | .nor .. => by
    show Fixes s (execNor _ _ _ s)
    unfold execNor
    exact fixes_aluReg _ _ _ _ s
  | .slt .. => by
    show Fixes s (execSlt _ _ _ s)
    unfold execSlt
    exact fixes_aluReg _ _ _ _ s
  | .sltu .. => by
    show Fixes s (execSltu _ _ _ s)
    unfold execSltu
    exact fixes_aluReg _ _ _ _ s
  | .tge .. => fixes_trapIf _ _ s
  | .tgeu .. => fixes_trapIf _ _ s
  | .tlt .. => fixes_trapIf _ _ s
  | .tltu .. => fixes_trapIf _ _ s
  | .teq .. => fixes_trapIf _ _ s
  | .tne .. => fixes_trapIf _ _ s
  | .bltz .. => fixes_branchIf _ _ s
  | .bgez .. => fixes_branchIf _ _ s
  | .tgei .. => fixes_trapIf _ _ s
  | .tgeiu .. => fixes_trapIf _ _ s
  | .tlti .. => fixes_trapIf _ _ s
  | .tltiu .. => fixes_trapIf _ _ s
  | .teqi .. => fixes_trapIf _ _ s
  | .tnei .. => fixes_trapIf _ _ s
  | .bltzal .. => fixes_unlessClash (fixes_linkThenBranchIf _ _ s)
  | .bal .. => .next (fixed_linkThenJump _ _ s)
  | .bgezal .. => fixes_unlessClash (fixes_linkThenBranchIf _ _ s)
  | .j .. => .next (.setLive rfl)
  | .jal .. => .next (fixed_linkThenJump _ _ s)
  | .b .. => fixes_branchIf _ _ s
  | .beq .. => fixes_branchIf _ _ s
  | .bne .. => fixes_branchIf _ _ s
  | .blez .. => fixes_branchIf _ _ s
  | .bgtz .. => fixes_branchIf _ _ s
  | .addi .. => fixes_warnedWrite _ _ _ s
  | .addiu .. => fixes_aluImm _ _ _ _ s
  | .slti .. => by
    show Fixes s (execSlti _ _ _ s)
    unfold execSlti
    exact fixes_aluImm _ _ _ _ s
  | .sltiu .. => by
    show Fixes s (execSltiu _ _ _ s)
    unfold execSltiu
    exact fixes_aluImm _ _ _ _ s
  | .andi .. => fixes_aluImm _ _ _ _ s
  | .ori .. => fixes_aluImm _ _ _ _ s
  | .xori .. => fixes_aluImm _ _ _ _ s
  | .lui .. => .next (.setLive rfl)
  | .mfc1 .. => .next (.setLive rfl)
  | .cfc1 .. => fixes_execCfc1 _ _ s
  | .mtc1 .. => .next (.setLive rfl)
  | .ctc1 .. => fixes_execCtc1 _ _ s
  | .bc1f .. => fixes_branchIf _ _ s
  | .bc1t .. => fixes_branchIf _ _ s
  | .bc1fl .. => fixes_branchLikelyIf _ _ s
  | .bc1tl .. => fixes_branchLikelyIf _ _ s
  | .addS .. => fixes_writeSingle _ _ _ s
  | .subS .. => fixes_writeSingle _ _ _ s
  | .mulS .. => fixes_writeSingle _ _ _ s
  | .divS .. => fixes_writeSingle _ _ _ s
  | .sqrtS .. => fixes_writeSingle _ _ _ s
  | .absS .. => .next (.setLive rfl)
  | .movS .. => .next (.setLive rfl)
  | .negS .. => .next (.setLive rfl)
  | .cvtDS .. => fixes_writeDouble _ _ _ s
  | .cvtWS .. => fixes_writeInt32 _ _ _ s
  | .cvtLS .. => fixes_writeInt64 _ _ _ s
  | .cFS .. => .next (.setLive rfl)
  | .cUnS .. => .next (.setLive rfl)
  | .cEqS .. => .next (.setLive rfl)
  | .cUeqS .. => .next (.setLive rfl)
  | .cOltS .. => .next (.setLive rfl)
  | .cUltS .. => .next (.setLive rfl)
  | .cOleS .. => .next (.setLive rfl)
  | .cUleS .. => .next (.setLive rfl)
  | .cSfS .. => .next (.setLive rfl)
  | .cNgleS .. => .next (.setLive rfl)
  | .cSeqS .. => .next (.setLive rfl)
  | .cNglS .. => .next (.setLive rfl)
  | .cLtS .. => .next (.setLive rfl)
  | .cNgeS .. => .next (.setLive rfl)
  | .cLeS .. => .next (.setLive rfl)
  | .cNgtS .. => .next (.setLive rfl)
  | .addD .. => fixes_writeDouble _ _ _ s
  | .subD .. => fixes_writeDouble _ _ _ s
  | .mulD .. => fixes_writeDouble _ _ _ s
  | .divD .. => fixes_writeDouble _ _ _ s
  | .sqrtD .. => fixes_writeDouble _ _ _ s
  | .absD .. => .next (fixed_setFl _ _ s)
  | .movD .. => .next (fixed_setFl _ _ s)
  | .negD .. => .next (fixed_setFl _ _ s)
  | .cvtSD .. => fixes_writeSingle _ _ _ s
  | .cvtWD .. => fixes_writeInt32 _ _ _ s
  | .cvtLD .. => fixes_writeInt64 _ _ _ s
  | .cFD .. => .next (.setLive rfl)
  | .cUnD .. => .next (.setLive rfl)
  | .cEqD .. => .next (.setLive rfl)
  | .cUeqD .. => .next (.setLive rfl)
  | .cOltD .. => .next (.setLive rfl)
  | .cUltD .. => .next (.setLive rfl)
  | .cOleD .. => .next (.setLive rfl)
  | .cUleD .. => .next (.setLive rfl)
  | .cSfD .. => .next (.setLive rfl)
  | .cNgleD .. => .next (.setLive rfl)
  | .cSeqD .. => .next (.setLive rfl)
  | .cNglD .. => .next (.setLive rfl)
  | .cLtD .. => .next (.setLive rfl)
  | .cNgeD .. => .next (.setLive rfl)
  | .cLeD .. => .next (.setLive rfl)
  | .cNgtD .. => .next (.setLive rfl)
  | .cvtSW .. => by
    show Fixes s (execCvtSW _ _ s)
    unfold execCvtSW
    exact fixes_writeSingle _ _ _ s
  | .cvtDW .. => by
    show Fixes s (execCvtDW _ _ s)
    unfold execCvtDW
    exact fixes_writeDouble _ _ _ s
  | .cvtSL .. => by
    show Fixes s (execCvtSL _ _ s)
    unfold execCvtSL
    exact fixes_writeSingle _ _ _ s
  | .cvtDL .. => by
    show Fixes s (execCvtDL _ _ s)
    unfold execCvtDL
    exact fixes_writeDouble _ _ _ s
  | .lb .. => by
    show Fixes s (execLb _ _ _ s)
    unfold execLb
    exact fixes_loadReg _ _ _ _ _ s
  | .lh .. => by
    show Fixes s (execLh _ _ _ s)
    unfold execLh
    exact fixes_loadReg _ _ _ _ _ s
  | .lwl .. => fixes_loadPartial _ _ _ _ s
  | .lw .. => fixes_loadReg _ _ _ _ _ s
  | .lbu .. => by
    show Fixes s (execLbu _ _ _ s)
    unfold execLbu
    exact fixes_loadReg _ _ _ _ _ s
  | .lhu .. => by
    show Fixes s (execLhu _ _ _ s)
    unfold execLhu
    exact fixes_loadReg _ _ _ _ _ s
  | .lwr .. => fixes_loadPartial _ _ _ _ s
  | .sb .. => by
    show Fixes s (execSb _ _ _ s)
    unfold execSb
    exact fixes_storeMem _ _ s fun _ _ h => Memory.wf_setByte _ _ h
  | .sh .. => by
    show Fixes s (execSh _ _ _ s)
    unfold execSh
    exact fixes_storeMem _ _ s fun _ _ h => Memory.wf_setHalf _ _ h
  | .swl .. => fixes_storePartial _ _ _ _ s
  | .sw .. => by
    show Fixes s (execSw _ _ _ s)
    unfold execSw
    exact fixes_storeMem _ _ s fun _ _ h => Memory.wf_setWord _ _ h
  | .swr .. => fixes_storePartial _ _ _ _ s
  | .ll .. => fixes_loadReg _ _ _ _ _ s
  | .sc .. => by
    show Fixes s (execSc _ _ _ s)
    unfold execSc
    exact fixes_accessing (.next ((Fixed.setMem (Memory.wf_setWord _ _)).trans (.setReg _ _ _)))
  | .lwc1 .. => by
    show Fixes s (execLwc1 _ _ _ s)
    unfold execLwc1
    exact fixes_accessing (.next (.setFw _ _ _))
  | .ldc1 .. => by
    show Fixes s (execLdc1 _ _ _ s)
    unfold execLdc1
    exact fixes_accessing (.next (fixed_setFl _ _ _))
  | .swc1 .. => by
    show Fixes s (execSwc1 _ _ _ s)
    unfold execSwc1
    exact fixes_storeMem _ _ s fun _ _ h => Memory.wf_setWord _ _ h
  | .sdc1 .. => by
    show Fixes s (execSdc1 _ _ _ s)
    unfold execSdc1
    exact fixes_storeMem _ _ s fun _ _ h => Memory.wf_setDouble _ _ h
  | .ssnop => fixes_raise _ s
  | .ehb => fixes_raise _ s
  | .movf => fixes_raise _ s
  | .movt => fixes_raise _ s
  | .rotr => fixes_raise _ s
  | .rotrv => fixes_raise _ s
  | .jrHb => fixes_raise _ s
  | .jalrHb => fixes_raise _ s
  | .movz => fixes_raise _ s
  | .movn => fixes_raise _ s
  | .bltzl => fixes_raise _ s
  | .bgezl => fixes_raise _ s
  | .bltzall => fixes_raise _ s
  | .bgezall => fixes_raise _ s
  | .synci => fixes_raise _ s
  | .failSentinel => fixes_raise _ s
  | .passSentinel => fixes_raise _ s
  | .cop0 => fixes_raise _ s
  | .mfc0 => fixes_raise _ s
  | .mtc0 => fixes_raise _ s
  | .rdpgpr => fixes_raise _ s
  | .wrpgpr => fixes_raise _ s
  | .di => fixes_raise _ s
  | .ei => fixes_raise _ s
  | .tlbr => fixes_raise _ s
  | .tlbwi => fixes_raise _ s
  | .tlbwr => fixes_raise _ s
  | .tlbp => fixes_raise _ s
  | .eret => fixes_raise _ s
  | .deret => fixes_raise _ s
  | .wait => fixes_raise _ s
  | .dmfc1 => fixes_raise _ s
  | .mfhc1 => fixes_raise _ s
  | .dmtc1 => fixes_raise _ s
  | .mthc1 => fixes_raise _ s
  | .bc1any2 => fixes_raise _ s
  | .bc1any4 => fixes_raise _ s
  | .roundLS => fixes_raise _ s
  | .truncLS => fixes_raise _ s
  | .ceilLS => fixes_raise _ s
  | .floorLS => fixes_raise _ s
  | .roundWS => fixes_raise _ s
  | .truncWS => fixes_raise _ s
  | .ceilWS => fixes_raise _ s
  | .floorWS => fixes_raise _ s
  | .movzS => fixes_raise _ s
  | .movnS => fixes_raise _ s
  | .recipS => fixes_raise _ s
  | .rsqrtS => fixes_raise _ s
  | .movfS => fixes_raise _ s
  | .movtS => fixes_raise _ s
  | .cvtPsS => fixes_raise _ s
  | .roundLD => fixes_raise _ s
  | .truncLD => fixes_raise _ s
  | .ceilLD => fixes_raise _ s
  | .floorLD => fixes_raise _ s
  | .roundWD => fixes_raise _ s
  | .truncWD => fixes_raise _ s
  | .ceilWD => fixes_raise _ s
  | .floorWD => fixes_raise _ s
  | .movzD => fixes_raise _ s
  | .movnD => fixes_raise _ s
  | .recipD => fixes_raise _ s
  | .rsqrtD => fixes_raise _ s
  | .movfD => fixes_raise _ s
  | .movtD => fixes_raise _ s
  | .fmtPs => fixes_raise _ s
  | .cop2 => fixes_raise _ s
  | .lwxc1 => fixes_raise _ s
  | .ldxc1 => fixes_raise _ s
  | .luxc1 => fixes_raise _ s
  | .swxc1 => fixes_raise _ s
  | .sdxc1 => fixes_raise _ s
  | .suxc1 => fixes_raise _ s
  | .prefx => fixes_raise _ s
  | .alnvPs => fixes_raise _ s
  | .maddS => fixes_raise _ s
  | .maddD => fixes_raise _ s
  | .maddPs => fixes_raise _ s
  | .msubS => fixes_raise _ s
  | .msubD => fixes_raise _ s
  | .msubPs => fixes_raise _ s
  | .nmaddS => fixes_raise _ s
  | .nmaddD => fixes_raise _ s
  | .nmaddPs => fixes_raise _ s
  | .nmsubS => fixes_raise _ s
  | .nmsubD => fixes_raise _ s
  | .nmsubPs => fixes_raise _ s
  | .beql => fixes_raise _ s
  | .bnel => fixes_raise _ s
  | .blezl => fixes_raise _ s
  | .bgtzl => fixes_raise _ s
  | .madd => fixes_raise _ s
  | .maddu => fixes_raise _ s
  | .mul => fixes_raise _ s
  | .msub => fixes_raise _ s
  | .msubu => fixes_raise _ s
  | .clz => fixes_raise _ s
  | .clo => fixes_raise _ s
  | .sdbbp => fixes_raise _ s
  | .jalx => fixes_raise _ s
  | .ext => fixes_raise _ s
  | .ins => fixes_raise _ s
  | .wsbh => fixes_raise _ s
  | .seb => fixes_raise _ s
  | .seh => fixes_raise _ s
  | .rdhwr => fixes_raise _ s
  | .cache => fixes_raise _ s
  | .pref => fixes_raise _ s
  | .lwc2 => fixes_raise _ s
  | .ldc2 => fixes_raise _ s
  | .swc2 => fixes_raise _ s
  | .sdc2 => fixes_raise _ s

/-- Every instruction answers a next state: none faults and none is refused outright (R370, R376). -/
theorem exec_answers_next (i : Instr) (s : State) : ∃ t, exec i s = .next t :=
  let ⟨t, h, _⟩ := exec_fixes i s
  ⟨t, h⟩

/-- What is fixed, of a next state. -/
theorem exec_fixed {i : Instr} {s t : State} (h : exec i s = .next t) : Fixed s t := by
  obtain ⟨u, e, k⟩ := exec_fixes i s
  rw [h] at e
  cases e
  exact k

end Sys2Proof.Machine
end

