-- ==== Sys2Proof/Laws/Float.lean ====
section
/-! SUPPORT. Rounding: what `FloatFmt.roundFrac` gives is the nearest value of the format, ties to even (R281). -/

namespace Sys2Proof.Machine

/-! ## Powers of two -/

/-- `pow2Den` is positive. -/
theorem pow2Den_pos (k : Int) : 0 < pow2Den k := by
  unfold pow2Den
  split <;> positivity

/-- The fraction of `pow2Num` and `pow2Den` is `m * 2 ^ k`. -/
theorem pow2Num_div_pow2Den (m : ℕ) (k : Int) : (pow2Num m k : ℚ) / pow2Den k = m * 2 ^ k := by
  unfold pow2Num pow2Den
  by_cases h : 0 ≤ k
  · obtain ⟨n, rfl⟩ := Int.eq_ofNat_of_zero_le h
    simp
  · obtain ⟨n, rfl⟩ : ∃ n : ℕ, k = -n := ⟨(-k).toNat, by omega⟩
    have hn : n ≠ 0 := by rintro rfl; simp at h
    simp [hn, zpow_neg, div_eq_mul_inv]

/-! ## Rounding to an integer -/

/-- `divNearestEven` is within a half of the fraction, and even where it is a half away. -/
theorem divNearestEven_spec (n : ℕ) {d : ℕ} (hd : 0 < d) :
    |(divNearestEven n d : ℚ) - n / d| ≤ 1 / 2 ∧
      (|(divNearestEven n d : ℚ) - n / d| = 1 / 2 → divNearestEven n d % 2 = 0) := by
  have hq : (n : ℚ) / d = (n / d : ℕ) + ((n % d : ℕ) : ℚ) / d := by
    have h : (n : ℚ) = d * (n / d : ℕ) + (n % d : ℕ) := by exact_mod_cast (Nat.div_add_mod n d).symm
    have : (d : ℚ) ≠ 0 := by positivity
    field_simp
    linarith
  have hr : ((n % d : ℕ) : ℚ) < d := by exact_mod_cast Nat.mod_lt n hd
  have hd' : (0 : ℚ) < d := by exact_mod_cast hd
  have h0 : (0 : ℚ) ≤ ((n % d : ℕ) : ℚ) / d := by positivity
  set q := n / d with hqd
  set r := n % d with hrd
  have key (x : ℚ) : x < ((r : ℕ) : ℚ) / d ↔ x * d < r := lt_div_iff₀ hd'
  have key' (x : ℚ) : ((r : ℕ) : ℚ) / d < x ↔ r < x * d := div_lt_iff₀ hd'
  have h1 : ((r : ℕ) : ℚ) / d < 1 := by rw [key']; linarith
  unfold divNearestEven
  simp only [← hqd, ← hrd]
  rw [hq]
  split
  · rename_i h
    have h : (1 / 2 : ℚ) < ((r : ℕ) : ℚ) / d := by
      rw [key]
      have : (d : ℚ) < 2 * r := by exact_mod_cast h
      linarith
    push_cast
    rw [show (q : ℚ) + 1 - (q + (r : ℚ) / d) = 1 - (r : ℚ) / d by ring, abs_of_pos (by linarith)]
    exact ⟨by linarith, fun e => by linarith⟩
  · split
    · rename_i h
      have h : ((r : ℕ) : ℚ) / d < 1 / 2 := by
        rw [key']
        have : 2 * (r : ℚ) < d := by exact_mod_cast h
        linarith
      rw [show (q : ℚ) - (q + (r : ℚ) / d) = -((r : ℚ) / d) by ring, abs_neg, abs_of_nonneg h0]
      exact ⟨by linarith, fun e => by linarith⟩
    · have h : ((r : ℕ) : ℚ) / d = 1 / 2 := by
        have : (2 * r : ℚ) = d := by exact_mod_cast (by omega : 2 * r = d)
        field_simp
        linarith
      split
      · rename_i he
        rw [show (q : ℚ) - (q + (r : ℚ) / d) = -((r : ℚ) / d) by ring, abs_neg, h]
        exact ⟨by norm_num, fun _ => he⟩
      · push_cast
        rw [show (q : ℚ) + 1 - (q + (r : ℚ) / d) = 1 - (r : ℚ) / d by ring, h]
        exact ⟨by norm_num, fun _ => by omega⟩

/-- No integer is nearer, and one as near is the same one or the rounded one is even. -/
theorem divNearestEven_nearest (n : ℕ) {d : ℕ} (hd : 0 < d) (j : ℤ) :
    |(divNearestEven n d : ℚ) - n / d| ≤ |(j : ℚ) - n / d| ∧
      (|(divNearestEven n d : ℚ) - n / d| = |(j : ℚ) - n / d| → j = divNearestEven n d ∨ divNearestEven n d % 2 = 0) := by
  obtain ⟨h1, h2⟩ := divNearestEven_spec n hd
  set r := divNearestEven n d
  by_cases hj : j = r
  · subst hj
    exact ⟨le_refl _, fun _ => Or.inl rfl⟩
  · have h3 : (1 : ℚ) ≤ |(j : ℚ) - r| := by
      have : (1 : ℤ) ≤ |j - r| := Int.one_le_abs (sub_ne_zero.2 hj)
      exact_mod_cast this
    have h4 : |(j : ℚ) - r| ≤ |(j : ℚ) - n / d| + |(r : ℚ) - n / d| := by
      rw [show (j : ℚ) - r = (j - n / d) - (r - n / d) by ring]
      exact abs_sub _ _
    exact ⟨by linarith, fun e => Or.inr (h2 (by linarith))⟩

/-- A fraction of at most an integer rounds to at most it. -/
theorem divNearestEven_le {n d b : ℕ} (hd : 0 < d) (h : (n : ℚ) / d ≤ b) : divNearestEven n d ≤ b := by
  by_contra hb
  have hb : ((b : ℚ) + 1) ≤ divNearestEven n d := by exact_mod_cast Nat.lt_of_not_le hb
  have h1 := (divNearestEven_spec n hd).1
  rw [abs_of_nonneg (by linarith)] at h1
  linarith

/-- A fraction of at least an integer rounds to at least it. -/
theorem le_divNearestEven {n d b : ℕ} (hd : 0 < d) (h : (b : ℚ) ≤ (n : ℚ) / d) : b ≤ divNearestEven n d := by
  by_contra hb
  have hb : (divNearestEven n d : ℚ) + 1 ≤ b := by exact_mod_cast Nat.lt_of_not_le hb
  have h1 := (divNearestEven_spec n hd).1
  rw [abs_of_nonpos (by linarith)] at h1
  linarith

/-- `floorLog2` is the exponent of the leading bit. -/
theorem floorLog2_spec {n d : ℕ} (hn : 0 < n) (hd : 0 < d) :
    (2 : ℚ) ^ floorLog2 n d ≤ n / d ∧ (n : ℚ) / d < 2 ^ (floorLog2 n d + 1) := by
  have hd' : (0 : ℚ) < d := by exact_mod_cast hd
  have two : (2 : ℚ) ≠ 0 := by norm_num
  have n1 : (2 : ℚ) ^ (Nat.log2 n : ℤ) ≤ n := by
    rw [zpow_natCast]; exact_mod_cast Nat.log2_self_le hn.ne'
  have n2 : (n : ℚ) < 2 ^ ((Nat.log2 n : ℤ) + 1) := by
    rw [show (Nat.log2 n : ℤ) + 1 = ((Nat.log2 n + 1 : ℕ) : ℤ) by push_cast; ring, zpow_natCast]
    exact_mod_cast Nat.lt_log2_self
  have d1 : (2 : ℚ) ^ (Nat.log2 d : ℤ) ≤ d := by
    rw [zpow_natCast]; exact_mod_cast Nat.log2_self_le hd.ne'
  have d2 : (d : ℚ) < 2 ^ ((Nat.log2 d : ℤ) + 1) := by
    rw [show (Nat.log2 d : ℤ) + 1 = ((Nat.log2 d + 1 : ℕ) : ℤ) by push_cast; ring, zpow_natCast]
    exact_mod_cast Nat.lt_log2_self
  set k : ℤ := (Nat.log2 n : ℤ) - Nat.log2 d with hk
  have test : pow2Den k * n < pow2Num d k ↔ (n : ℚ) / d < 2 ^ k := by
    have h := pow2Num_div_pow2Den d k
    have hp : (0 : ℚ) < pow2Den k := by exact_mod_cast pow2Den_pos k
    rw [div_eq_iff hp.ne'] at h
    rw [div_lt_iff₀ hd', ← Nat.cast_lt (α := ℚ), h]
    push_cast
    constructor
    · intro e; nlinarith
    · intro e; nlinarith
  have lo : (2 : ℚ) ^ (k - 1) ≤ n / d := by
    rw [le_div_iff₀ hd']
    have : (2 : ℚ) ^ (k - 1) * d ≤ 2 ^ (k - 1) * 2 ^ ((Nat.log2 d : ℤ) + 1) := by
      apply mul_le_mul_of_nonneg_left d2.le; positivity
    rw [← zpow_add₀ two, show k - 1 + ((Nat.log2 d : ℤ) + 1) = Nat.log2 n by omega] at this
    linarith
  have hi : (n : ℚ) / d < 2 ^ (k + 1) := by
    rw [div_lt_iff₀ hd']
    have : (2 : ℚ) ^ (k + 1) * 2 ^ (Nat.log2 d : ℤ) ≤ 2 ^ (k + 1) * d := by
      apply mul_le_mul_of_nonneg_left d1; positivity
    rw [← zpow_add₀ two, show k + 1 + (Nat.log2 d : ℤ) = Nat.log2 n + 1 by omega] at this
    linarith
  unfold floorLog2
  simp only [← hk]
  split
  · rename_i h
    exact ⟨lo, by simpa using test.1 h⟩
  · rename_i h
    exact ⟨not_lt.1 fun e => h (test.2 e), hi⟩

/-! ## Encodings -/

/-- A format with the fields of IEEE 754: at least one fraction bit and two exponent bits. -/
structure FloatFmt.Ok (f : FloatFmt) : Prop where
  frac : 1 ≤ f.fracBits
  exp : 2 ≤ f.expBits

theorem FloatFmt.single_ok : FloatFmt.single.Ok := ⟨by decide, by decide⟩

theorem FloatFmt.double_ok : FloatFmt.double.Ok := ⟨by decide, by decide⟩

theorem FloatFmt.Ok.maxExp_ge {f : FloatFmt} (h : f.Ok) : 3 ≤ f.maxExp := by
  have : 2 ^ 2 ≤ 2 ^ f.expBits := Nat.pow_le_pow_right (by norm_num) h.exp
  unfold FloatFmt.maxExp
  omega

theorem FloatFmt.maxExp_lt (f : FloatFmt) : f.maxExp < 2 ^ f.expBits := by
  have : 0 < 2 ^ f.expBits := by positivity
  unfold FloatFmt.maxExp
  omega

/-- The fields of a signed magnitude. -/
theorem FloatFmt.fields_signed (f : FloatFmt) (neg : Bool) {m : ℕ} (h : m < f.signBit) :
    f.signed neg m % 2 ^ f.fracBits = m % 2 ^ f.fracBits ∧
      f.signed neg m / 2 ^ f.fracBits % 2 ^ f.expBits = m / 2 ^ f.fracBits ∧
      (f.signed neg m / f.signBit % 2 == 1) = neg := by
  have hs : f.signBit = 2 ^ f.fracBits * 2 ^ f.expBits := by
    rw [FloatFmt.signBit, Nat.pow_add, Nat.mul_comm]
  have hf : 0 < 2 ^ f.fracBits := by positivity
  have hdiv : m / 2 ^ f.fracBits < 2 ^ f.expBits := by
    rw [Nat.div_lt_iff_lt_mul hf, Nat.mul_comm, ← hs]; exact h
  cases neg
  · refine ⟨rfl, ?_, ?_⟩
    · simp only [FloatFmt.signed, Bool.false_eq_true, if_false]
      exact Nat.mod_eq_of_lt hdiv
    · simp [FloatFmt.signed, Nat.div_eq_of_lt h]
  · refine ⟨?_, ?_, ?_⟩
    · simp only [FloatFmt.signed, if_true, hs, Nat.add_comm]
      rw [Nat.add_mul_mod_self_left]
    · simp only [FloatFmt.signed, if_true, hs, Nat.add_comm]
      rw [Nat.add_mul_div_left _ _ hf, Nat.add_mod_right]
      exact Nat.mod_eq_of_lt hdiv
    · have h0 : 0 < f.signBit := by rw [hs]; positivity
      simp only [FloatFmt.signed, if_true]
      rw [Nat.add_comm, Nat.add_div_right _ h0, Nat.div_eq_of_lt h]
      rfl

/-- What a signed magnitude denotes. -/
theorem FloatFmt.unpack_signed (f : FloatFmt) (neg : Bool) {m : ℕ} (h : m < f.signBit) :
    f.unpack (f.signed neg m) =
      if m / 2 ^ f.fracBits = f.maxExp then (if m % 2 ^ f.fracBits = 0 then .inf neg else .nan)
      else if m / 2 ^ f.fracBits = 0 then .fin neg (m % 2 ^ f.fracBits) f.minQuantum
      else .fin neg (2 ^ f.fracBits + m % 2 ^ f.fracBits) (f.minQuantum + (m / 2 ^ f.fracBits - 1 : ℕ)) := by
  obtain ⟨h1, h2, h3⟩ := f.fields_signed neg h
  simp only [FloatFmt.unpack, h1, h2, h3]

/-- The sign of a value as a factor. -/
def signOf (neg : Bool) : ℚ := if neg then -1 else 1

theorem abs_signOf (neg : Bool) : |signOf neg| = 1 := by cases neg <;> simp [signOf]

/-- The value of the encoding of a rounded significand `mant` at the quantum `t` above the least one: `t * 2 ^ p + mant`
holds `mant * 2 ^ (minQuantum + t)`, carries into the exponent field included. -/
theorem FloatFmt.value_signed {f : FloatFmt} (neg : Bool) {t mant : ℕ} (h : mant ≤ 2 ^ (f.fracBits + 1))
    (ht : t ≠ 0 → 2 ^ f.fracBits ≤ mant) (hm : t * 2 ^ f.fracBits + mant < f.infMagnitude) :
    f.value (f.signed neg (t * 2 ^ f.fracBits + mant)) = some (signOf neg * mant * 2 ^ (f.minQuantum + t)) := by
  have hf : 0 < 2 ^ f.fracBits := by positivity
  have two : (2 : ℚ) ≠ 0 := by norm_num
  have hs : t * 2 ^ f.fracBits + mant < f.signBit := by
    refine hm.trans_le ?_
    rw [FloatFmt.signBit, FloatFmt.infMagnitude, Nat.pow_add]
    exact Nat.mul_le_mul_right _ f.maxExp_lt.le
  have hx : (t * 2 ^ f.fracBits + mant) / 2 ^ f.fracBits < f.maxExp := by
    rw [Nat.div_lt_iff_lt_mul hf]; exact hm
  have hdiv : (t * 2 ^ f.fracBits + mant) / 2 ^ f.fracBits = t + mant / 2 ^ f.fracBits := by
    rw [Nat.add_comm, Nat.add_mul_div_right _ _ hf, Nat.add_comm]
  have hmod : (t * 2 ^ f.fracBits + mant) % 2 ^ f.fracBits = mant % 2 ^ f.fracBits := by
    rw [Nat.add_comm, Nat.add_mul_mod_self_right]
  rw [FloatFmt.value, f.unpack_signed neg hs, if_neg hx.ne, hdiv, hmod]
  have hsplit : (mant : ℚ) = 2 ^ f.fracBits * (mant / 2 ^ f.fracBits : ℕ) + (mant % 2 ^ f.fracBits : ℕ) := by
    exact_mod_cast (Nat.div_add_mod mant (2 ^ f.fracBits)).symm
  have hcar : mant / 2 ^ f.fracBits ≤ 2 := by
    rw [Nat.pow_succ] at h
    exact Nat.div_le_of_le_mul h
  have hcar2 : mant / 2 ^ f.fracBits = 2 → mant % 2 ^ f.fracBits = 0 := by
    intro e
    have := Nat.div_add_mod mant (2 ^ f.fracBits)
    rw [e] at this
    rw [Nat.pow_succ] at h
    omega
  have hcar1 : t ≠ 0 → 1 ≤ mant / 2 ^ f.fracBits := fun e => (Nat.one_le_div_iff hf).2 (ht e)
  generalize mant / 2 ^ f.fracBits = c at *
  generalize mant % 2 ^ f.fracBits = b at *
  have hsg (x : ℚ) (y : ℚ) : ((if neg = true then -1 else 1) * x * y : ℚ) = signOf neg * x * y := rfl
  split
  · rename_i h0
    obtain rfl : t = 0 := by omega
    obtain rfl : c = 0 := by omega
    simp [FloatVal.rat?, hsplit, signOf]
  · rename_i h0
    have hc : c = 1 ∨ c = 2 := by
      rcases Nat.eq_zero_or_pos t with rfl | h'
      · omega
      · have := hcar1 (by omega); omega
    simp only [FloatVal.rat?, hsg, hsplit, Option.some.injEq]
    rcases hc with rfl | rfl
    · push_cast
      ring
    · rw [hcar2 rfl, show t + 2 - 1 = t + 1 by omega]
      push_cast
      rw [← add_assoc, zpow_add₀ two _ 1]
      simp only [zpow_one]
      ring

/-- Every finite value is a signed significand of at most `p + 1` bits at a quantum that is no less than the least. -/
theorem FloatFmt.value_form {f : FloatFmt} {bits : ℕ} {w : ℚ} (h : f.value bits = some w) :
    ∃ (neg : Bool) (m t : ℕ), w = signOf neg * m * 2 ^ (f.minQuantum + t) ∧ m < 2 ^ (f.fracBits + 1) := by
  have hb : bits % 2 ^ f.fracBits < 2 ^ f.fracBits := Nat.mod_lt _ (by positivity)
  simp only [FloatFmt.value, FloatFmt.unpack] at h
  split at h
  · split at h <;> simp [FloatVal.rat?] at h
  · split at h
    · simp only [FloatVal.rat?, Option.some.injEq] at h
      exact ⟨bits / f.signBit % 2 == 1, bits % 2 ^ f.fracBits, 0, by simp [signOf, ← h], by rw [Nat.pow_succ]; omega⟩
    · simp only [FloatVal.rat?, Option.some.injEq] at h
      refine ⟨_, 2 ^ f.fracBits + bits % 2 ^ f.fracBits, _, h.symm, by rw [Nat.pow_succ]; omega⟩

/-! ## Rounding to the format -/

/-- A signed magnitude is even where its magnitude is. -/
theorem FloatFmt.signed_mod_two {f : FloatFmt} (ok : f.Ok) (neg : Bool) (m : ℕ) : f.signed neg m % 2 = m % 2 := by
  have : f.signBit % 2 = 0 := by
    obtain ⟨a, ha⟩ : ∃ a, f.expBits + f.fracBits = a + 1 := ⟨f.expBits + f.fracBits - 1, by have := ok.frac; omega⟩
    rw [FloatFmt.signBit, ha, Nat.pow_succ, Nat.mul_mod_left]
  cases neg <;> simp [FloatFmt.signed, Nat.add_mod, this]

/-- A significand at a quantum is nearest to `y * 2 ^ q` where it is nearest to `y` among the integers and, above the least
quantum, `y` is at least `2 ^ p`. -/
theorem FloatFmt.nearest_of_integer {f : FloatFmt} (ok : f.Ok) (neg : Bool) {t mant : ℕ} {y : ℚ}
    (hm : mant ≤ 2 ^ (f.fracBits + 1)) (ht : t ≠ 0 → (2 : ℚ) ^ f.fracBits ≤ y) (hl : t ≠ 0 → 2 ^ f.fracBits ≤ mant)
    (hfin : t * 2 ^ f.fracBits + mant < f.infMagnitude)
    (hnear : ∀ j : ℤ, |(mant : ℚ) - y| ≤ |(j : ℚ) - y| ∧ (|(mant : ℚ) - y| = |(j : ℚ) - y| → j = mant ∨ mant % 2 = 0)) :
    f.Nearest (signOf neg * (y * 2 ^ (f.minQuantum + t))) (f.signed neg (t * 2 ^ f.fracBits + mant)) := by
  have two : (2 : ℚ) ≠ 0 := by norm_num
  refine ⟨_, f.value_signed neg hm hl hfin, fun other w hw => ?_⟩
  obtain ⟨neg', m, t', rfl, hm'⟩ := FloatFmt.value_form hw
  have hQ : (0 : ℚ) < 2 ^ (f.minQuantum + t) := by positivity
  set Q : ℚ := 2 ^ (f.minQuantum + t) with hQd
  have hv : |signOf neg * mant * Q - signOf neg * (y * Q)| = |(mant : ℚ) - y| * Q := by
    rw [show signOf neg * mant * Q - signOf neg * (y * Q) = signOf neg * (((mant : ℚ) - y) * Q) by ring, abs_mul,
      abs_signOf, one_mul, abs_mul, abs_of_pos hQ]
  have hsq : signOf neg * signOf neg = 1 := by cases neg <;> simp [signOf]
  rw [hv]
  by_cases h : t ≤ t'
  · obtain ⟨e, rfl⟩ := Nat.exists_eq_add_of_le h
    obtain ⟨j, hj⟩ : ∃ j : ℤ, (j : ℚ) = signOf neg * signOf neg' * m * 2 ^ e := by
      refine ⟨(if neg then -1 else 1) * (if neg' then -1 else 1) * m * 2 ^ e, ?_⟩
      cases neg <;> cases neg' <;> simp [signOf]
    have hw' : signOf neg' * m * 2 ^ (f.minQuantum + (t + e : ℕ)) = signOf neg * j * Q := by
      rw [hj, hQd, show f.minQuantum + ((t + e : ℕ) : ℤ) = f.minQuantum + t + e by push_cast; ring, zpow_add₀ two,
        zpow_natCast]
      linear_combination (-(signOf neg' * m * 2 ^ (f.minQuantum + (t : ℤ)) * 2 ^ e)) * hsq
    have hd : |signOf neg' * m * 2 ^ (f.minQuantum + (t + e : ℕ)) - signOf neg * (y * Q)| = |(j : ℚ) - y| * Q := by
      rw [hw', show signOf neg * j * Q - signOf neg * (y * Q) = signOf neg * (((j : ℚ) - y) * Q) by ring, abs_mul,
        abs_signOf, one_mul, abs_mul, abs_of_pos hQ]
    rw [hd]
    obtain ⟨h1, h2⟩ := hnear j
    refine ⟨mul_le_mul_of_nonneg_right h1 hQ.le, fun e' => ?_⟩
    rcases h2 (mul_right_cancel₀ hQ.ne' e') with h3 | h3
    · left
      rw [hw', h3]
      push_cast
      ring
    · right
      rw [FloatFmt.signed_mod_two ok]
      obtain ⟨a, ha⟩ : ∃ a, f.fracBits = a + 1 := ⟨f.fracBits - 1, by have := ok.frac; omega⟩
      rw [ha, Nat.pow_succ, ← Nat.mul_assoc, Nat.add_mod, Nat.mul_mod_left, Nat.zero_add, Nat.mod_mod]
      exact h3
  · have ht0 : t ≠ 0 := by omega
    have hy := ht ht0
    have hW : |signOf neg' * m * 2 ^ (f.minQuantum + (t' : ℤ))| < 2 ^ f.fracBits * Q := by
      rw [abs_mul, abs_mul, abs_signOf, one_mul, Nat.abs_cast, abs_of_pos (by positivity)]
      have h1 : (m : ℚ) < 2 ^ (f.fracBits + 1) := by exact_mod_cast hm'
      have h2 : (2 : ℚ) ^ (f.minQuantum + (t' : ℤ)) ≤ 2 ^ (f.minQuantum + (t : ℤ) - 1) :=
        zpow_le_zpow_right₀ (by norm_num) (by omega)
      calc (m : ℚ) * 2 ^ (f.minQuantum + (t' : ℤ)) < 2 ^ (f.fracBits + 1) * 2 ^ (f.minQuantum + (t' : ℤ)) :=
            mul_lt_mul_of_pos_right h1 (by positivity)
        _ ≤ 2 ^ (f.fracBits + 1) * 2 ^ (f.minQuantum + (t : ℤ) - 1) := mul_le_mul_of_nonneg_left h2 (by positivity)
        _ = 2 ^ f.fracBits * Q := by rw [zpow_sub₀ two, hQd, pow_succ]; field_simp
    have h1 := (hnear (2 ^ f.fracBits)).1
    push_cast at h1
    rw [abs_of_nonpos (a := (2 : ℚ) ^ f.fracBits - y) (by linarith)] at h1
    have h2 : y * Q - |signOf neg' * m * 2 ^ (f.minQuantum + (t' : ℤ))| ≤
        |signOf neg' * m * 2 ^ (f.minQuantum + (t' : ℤ)) - signOf neg * (y * Q)| := by
      have := abs_sub_abs_le_abs_sub (signOf neg * (y * Q)) (signOf neg' * m * 2 ^ (f.minQuantum + (t' : ℤ)))
      rw [abs_mul, abs_signOf, one_mul, abs_of_nonneg (a := y * Q), abs_sub_comm] at this
      · linarith
      · exact mul_nonneg (le_trans (by positivity) hy) hQ.le
    have h3 : |(mant : ℚ) - y| * Q ≤ (y - 2 ^ f.fracBits) * Q := mul_le_mul_of_nonneg_right (by linarith) hQ.le
    have h4 : |(mant : ℚ) - y| * Q < |signOf neg' * m * 2 ^ (f.minQuantum + (t' : ℤ)) - signOf neg * (y * Q)| := by
      nlinarith
    exact ⟨h4.le, fun e => absurd e h4.ne⟩

/-- What `roundFrac` packs: a quantum `t` above the least one, the fraction `y` in its units, and the integer nearest to it. -/
theorem FloatFmt.roundFrac_form (f : FloatFmt) (neg : Bool) {n d : ℕ} (hn : 0 < n) (hd : 0 < d) :
    ∃ (t mant N D : ℕ) (y : ℚ), 0 < D ∧ (N : ℚ) / D = y ∧ mant = divNearestEven N D ∧
      (n : ℚ) / d = y * 2 ^ (f.minQuantum + t) ∧ y ≤ 2 ^ (f.fracBits + 1) ∧ (t ≠ 0 → (2 : ℚ) ^ f.fracBits ≤ y) ∧
      mant ≤ 2 ^ (f.fracBits + 1) ∧ (t ≠ 0 → 2 ^ f.fracBits ≤ mant) ∧
      f.roundFrac neg n d = f.signed neg (min (t * 2 ^ f.fracBits + mant) f.infMagnitude) := by
  have two : (2 : ℚ) ≠ 0 := by norm_num
  obtain ⟨hlo, hhi⟩ := floorLog2_spec hn hd
  set k := floorLog2 n d with hk
  obtain ⟨t, hq⟩ : ∃ t : ℕ, f.quantum n d = f.minQuantum + t :=
    ⟨(f.quantum n d - f.minQuantum).toNat, by unfold FloatFmt.quantum; omega⟩
  have hqk : k - f.fracBits ≤ f.minQuantum + t := by rw [← hq, FloatFmt.quantum]; omega
  have hqt : t ≠ 0 → f.minQuantum + t = k - f.fracBits := by
    intro h
    rw [FloatFmt.quantum] at hq
    omega
  have hQ : (0 : ℚ) < 2 ^ (f.minQuantum + (t : ℤ)) := by positivity
  have hDpos : 0 < pow2Num d (f.minQuantum + t) := by
    unfold pow2Num
    split <;> positivity
  have hND : ((n * pow2Den (f.minQuantum + t) : ℕ) : ℚ) / (pow2Num d (f.minQuantum + t) : ℕ) =
      n / d / 2 ^ (f.minQuantum + (t : ℤ)) := by
    have h := pow2Num_div_pow2Den d (f.minQuantum + t)
    have hp : (0 : ℚ) < pow2Den (f.minQuantum + t) := by exact_mod_cast pow2Den_pos _
    rw [div_eq_iff hp.ne'] at h
    rw [Nat.cast_mul, h]
    field_simp
  have hy1 : (n : ℚ) / d / 2 ^ (f.minQuantum + (t : ℤ)) ≤ 2 ^ (f.fracBits + 1) := by
    rw [div_le_iff₀ hQ, ← zpow_natCast, ← zpow_add₀ two]
    exact hhi.le.trans (zpow_le_zpow_right₀ (by norm_num) (by push_cast; omega))
  have hy2 : t ≠ 0 → (2 : ℚ) ^ f.fracBits ≤ (n : ℚ) / d / 2 ^ (f.minQuantum + (t : ℤ)) := by
    intro h
    rw [le_div_iff₀ hQ, hqt h, ← zpow_natCast, ← zpow_add₀ two, show (f.fracBits : ℤ) + (k - f.fracBits) = k by ring]
    exact hlo
  refine ⟨t, _, _, _, _, hDpos, hND, rfl, by field_simp, hy1, hy2,
    divNearestEven_le hDpos (by rw [hND]; exact_mod_cast hy1),
    fun h => le_divNearestEven hDpos (by rw [hND]; exact_mod_cast hy2 h), ?_⟩
  rw [FloatFmt.roundFrac, if_neg hn.ne']
  simp only [hq, FloatFmt.pack]
  rw [show (f.minQuantum + (t : ℤ) - f.minQuantum).toNat = t by omega]

/-- The magnitude of an infinity, as the largest finite binade and the carry out of it. -/
theorem FloatFmt.infMagnitude_eq {f : FloatFmt} (ok : f.Ok) :
    f.infMagnitude = (f.maxExp - 2) * 2 ^ f.fracBits + 2 ^ (f.fracBits + 1) := by
  have h3 := ok.maxExp_ge
  rw [FloatFmt.infMagnitude, Nat.pow_succ, Nat.mul_comm (2 ^ f.fracBits) 2, ← Nat.add_mul]
  congr 1
  omega

/-- The infinity's magnitude is below the sign bit. -/
theorem FloatFmt.infMagnitude_lt (f : FloatFmt) : f.infMagnitude < f.signBit := by
  rw [FloatFmt.signBit, FloatFmt.infMagnitude, Nat.pow_add]
  exact Nat.mul_lt_mul_of_pos_right f.maxExp_lt (by positivity)

/-- A quantum further up is at least twice as large. -/
theorem two_zpow_step (q : ℤ) {a b : ℕ} (h : a < b) : (2 : ℚ) * 2 ^ (q + a) ≤ 2 ^ (q + b) := by
  rw [mul_comm, ← zpow_add_one₀ (by norm_num : (2 : ℚ) ≠ 0)]
  exact zpow_le_zpow_right₀ (by norm_num) (by omega)

/-- A fraction below the overflow threshold rounds to the nearest value of the format, a tie to the even encoding. -/
theorem FloatFmt.roundFrac_nearest {f : FloatFmt} (ok : f.Ok) (neg : Bool) {n d : ℕ} (hn : 0 < n) (hd : 0 < d)
    (hx : (n : ℚ) / d < f.overflowAt) : f.Nearest (signOf neg * (n / d)) (f.roundFrac neg n d) := by
  obtain ⟨t, mant, N, D, y, hD, hND, rfl, hxy, hy1, hy2, hm1, hm2, hr⟩ := f.roundFrac_form neg hn hd
  rw [hxy] at hx ⊢
  rw [hr]
  have hmy := (divNearestEven_spec N hD).1
  rw [hND] at hmy
  have hfin : t * 2 ^ f.fracBits + divNearestEven N D < f.infMagnitude := by
    rw [FloatFmt.infMagnitude_eq ok]
    rw [FloatFmt.overflowAt] at hx
    have hW : (0 : ℚ) < 2 ^ (f.minQuantum + (f.maxExp - 2 : ℕ)) := by positivity
    rcases lt_trichotomy t (f.maxExp - 2) with h | h | h
    · have : (t + 1) * 2 ^ f.fracBits ≤ (f.maxExp - 2) * 2 ^ f.fracBits := Nat.mul_le_mul_right _ h
      have hp : 0 < 2 ^ f.fracBits := by positivity
      rw [Nat.pow_succ] at hm1 ⊢
      rw [Nat.add_mul] at this
      omega
    · rw [← h] at hx
      have hy3 : y < 2 ^ (f.fracBits + 1) - 1 / 2 := lt_of_mul_lt_mul_right hx (by positivity)
      have : (divNearestEven N D : ℚ) < (2 ^ (f.fracBits + 1) : ℕ) := by
        push_cast
        linarith [(abs_le.1 hmy).2]
      rw [← h]
      have := Nat.cast_lt.1 this
      omega
    · exfalso
      have h1 := two_zpow_step f.minQuantum h
      have h2 := mul_le_mul_of_nonneg_right (hy2 (by omega)) (by positivity : (0 : ℚ) ≤ 2 ^ (f.minQuantum + (t : ℤ)))
      have h3 := mul_le_mul_of_nonneg_left h1 (by positivity : (0 : ℚ) ≤ 2 ^ f.fracBits)
      rw [pow_succ] at hx
      nlinarith
  rw [Nat.min_eq_left hfin.le]
  refine FloatFmt.nearest_of_integer ok neg hm1 hy2 hm2 hfin fun j => ?_
  have := divNearestEven_nearest N hD j
  rwa [hND] at this

/-- A fraction from the overflow threshold on rounds to an infinity. -/
theorem FloatFmt.roundFrac_overflow {f : FloatFmt} (ok : f.Ok) (neg : Bool) {n d : ℕ} (hn : 0 < n) (hd : 0 < d)
    (hx : f.overflowAt ≤ (n : ℚ) / d) : f.roundFrac neg n d = f.infinity neg := by
  obtain ⟨t, mant, N, D, y, hD, hND, rfl, hxy, hy1, hy2, hm1, hm2, hr⟩ := f.roundFrac_form neg hn hd
  rw [hxy, FloatFmt.overflowAt] at hx
  rw [hr, FloatFmt.infinity]
  congr 1
  apply Nat.min_eq_right
  have hW : (0 : ℚ) < 2 ^ (f.minQuantum + (f.maxExp - 2 : ℕ)) := by positivity
  have hp1 : (1 : ℚ) ≤ 2 ^ f.fracBits := one_le_pow₀ (by norm_num)
  rcases lt_trichotomy t (f.maxExp - 2) with h | h | h
  · exfalso
    have h1 := two_zpow_step f.minQuantum h
    have h2 := mul_le_mul_of_nonneg_right hy1 (by positivity : (0 : ℚ) ≤ 2 ^ (f.minQuantum + (t : ℤ)))
    have h3 := mul_le_mul_of_nonneg_left h1 (by positivity : (0 : ℚ) ≤ 2 ^ f.fracBits)
    rw [pow_succ] at hx h2
    nlinarith
  · rw [FloatFmt.infMagnitude_eq ok, ← h]
    rw [← h] at hx
    have hy3 : 2 ^ (f.fracBits + 1) - 1 / 2 ≤ y := le_of_mul_le_mul_right hx (by positivity)
    obtain ⟨h1, h2⟩ := divNearestEven_spec N hD
    rw [hND] at h1 h2
    by_contra hb
    have hb : divNearestEven N D ≤ 2 ^ (f.fracBits + 1) - 1 := by omega
    have hb' : (divNearestEven N D : ℚ) ≤ 2 ^ (f.fracBits + 1) - 1 := by
      have : ((2 ^ (f.fracBits + 1) - 1 : ℕ) : ℚ) = 2 ^ (f.fracBits + 1) - 1 := by
        rw [Nat.cast_sub Nat.one_le_two_pow]
        push_cast
        rfl
      rw [← this]
      exact_mod_cast hb
    have hlow := (abs_le.1 h1).1
    have he : |(divNearestEven N D : ℚ) - y| = 1 / 2 := by
      rw [abs_of_nonpos (by linarith)]
      linarith
    have hm : (divNearestEven N D : ℚ) = 2 ^ (f.fracBits + 1) - 1 := by linarith
    have hm : divNearestEven N D + 1 = 2 ^ (f.fracBits + 1) := by
      have : ((divNearestEven N D + 1 : ℕ) : ℚ) = ((2 ^ (f.fracBits + 1) : ℕ) : ℚ) := by push_cast; linarith
      exact_mod_cast this
    have heven := h2 he
    rw [Nat.pow_succ] at hm
    omega
  · have h3 := hm2 (by omega)
    have : (f.maxExp - 2 + 1) * 2 ^ f.fracBits ≤ t * 2 ^ f.fracBits := Nat.mul_le_mul_right _ h
    rw [FloatFmt.infMagnitude_eq ok, Nat.pow_succ]
    rw [Nat.add_mul] at this
    omega

/-- The sign bit of a signed magnitude. -/
theorem FloatFmt.negative_signed (f : FloatFmt) (neg : Bool) {m : ℕ} (h : m < f.signBit) :
    f.negative (f.signed neg m) ↔ neg = true := by
  have := (f.fields_signed neg h).2.2
  rw [FloatFmt.negative, ← beq_iff_eq, this]

/-- A positive fraction under a sign, rounded once. -/
theorem FloatFmt.roundFrac_rounded {f : FloatFmt} (ok : f.Ok) (neg : Bool) {n d : ℕ} (hn : 0 < n) (hd : 0 < d) :
    f.Rounded (signOf neg * (n / d)) (f.roundFrac neg n d) := by
  have hpos : (0 : ℚ) < n / d := div_pos (by exact_mod_cast hn) (by exact_mod_cast hd)
  have hneg : signOf neg * ((n : ℚ) / d) < 0 ↔ neg = true := by
    cases neg <;> simp only [signOf, Bool.false_eq_true, if_false, if_true, iff_false, iff_true, not_lt] <;> linarith
  have habs : |signOf neg * ((n : ℚ) / d)| = n / d := by rw [abs_mul, abs_signOf, one_mul, abs_of_pos hpos]
  rw [FloatFmt.Rounded, habs]
  refine ⟨FloatFmt.roundFrac_nearest ok neg hn hd, fun h => ?_, ?_⟩
  · rw [FloatFmt.roundFrac_overflow ok neg hn hd h]
    congr 1
    rw [Bool.eq_iff_iff, decide_eq_true_eq, hneg]
  · obtain ⟨t, mant, N, D, y, -, -, -, -, -, -, -, -, hr⟩ := f.roundFrac_form neg hn hd
    rw [hr, hneg, f.negative_signed neg ((Nat.min_le_right _ _).trans_lt f.infMagnitude_lt)]

/-- `m * 2 ^ e` under a sign, rounded once. -/
theorem FloatFmt.round_rounded {f : FloatFmt} (ok : f.Ok) (neg : Bool) {m : ℕ} (e : ℤ) (hm : 0 < m) :
    f.Rounded (signOf neg * m * 2 ^ e) (f.round neg m e) := by
  have hp : 0 < pow2Num m e := by
    unfold pow2Num
    split <;> positivity
  have := FloatFmt.roundFrac_rounded ok neg hp (pow2Den_pos e)
  rw [pow2Num_div_pow2Den, ← mul_assoc] at this
  exact this

end Sys2Proof.Machine
end

