-- ==== Sys2Proof/Laws/FloatOps.lean ====
section
/-! SUPPORT. Exact values behind each floating-point operation: alignment, sums, products, quotients, square roots,
conversions and comparisons (R281 to R283, R316). -/

namespace Sys2Proof.Machine

/-! ## Values -/

/-- The value of a finite value, with the sign as a factor. -/
theorem FloatVal.rat?_fin (neg : Bool) (m : ℕ) (e : ℤ) :
    (FloatVal.fin neg m e).rat? = some (signOf neg * m * 2 ^ e) := rfl

/-- A value that is a number is finite. -/
theorem FloatVal.fin_of_rat? {v : FloatVal} {x : ℚ} (h : v.rat? = some x) :
    ∃ neg m e, v = .fin neg m e ∧ x = signOf neg * m * 2 ^ e := by
  cases v with
  | nan => simp [FloatVal.rat?] at h
  | inf => simp [FloatVal.rat?] at h
  | fin neg m e => exact ⟨neg, m, e, rfl, by simpa [FloatVal.rat?, signOf, eq_comm] using h⟩

/-- The significand and the exponent of a finite encoding are those of the format. -/
theorem FloatFmt.unpack_bounds {f : FloatFmt} {bits : ℕ} {neg : Bool} {m : ℕ} {e : ℤ}
    (h : f.unpack bits = .fin neg m e) : m < 2 ^ (f.fracBits + 1) ∧ f.minQuantum ≤ e := by
  have hb : bits % 2 ^ f.fracBits < 2 ^ f.fracBits := Nat.mod_lt _ (by positivity)
  simp only [FloatFmt.unpack] at h
  split at h
  · split at h <;> simp at h
  · split at h
    · simp only [FloatVal.fin.injEq] at h
      obtain ⟨-, rfl, rfl⟩ := h
      rw [Nat.pow_succ]
      omega
    · simp only [FloatVal.fin.injEq] at h
      obtain ⟨-, rfl, rfl⟩ := h
      rw [Nat.pow_succ]
      omega

/-- A value is a NaN exactly where its encoding is one. -/
theorem FloatFmt.unpack_eq_nan {f : FloatFmt} {bits : ℕ} : f.unpack bits = .nan ↔ f.isNaN bits := by
  simp only [FloatFmt.unpack, FloatFmt.isNaN]
  split
  · rename_i h
    split <;> simp_all
  · rename_i h
    split <;> simp_all

/-- A significand moved to an exponent that is at most its own. -/
theorem alignTo_value (neg : Bool) (m : ℕ) {e e0 : ℤ} (h : e0 ≤ e) :
    (alignTo neg m e e0 : ℚ) * 2 ^ e0 = signOf neg * m * 2 ^ e := by
  obtain ⟨k, rfl⟩ : ∃ k : ℕ, e = e0 + k := ⟨(e - e0).toNat, by omega⟩
  have : (e0 + (k : ℤ) - e0).toNat = k := by omega
  rw [zpow_add₀ (by norm_num : (2 : ℚ) ≠ 0), zpow_natCast]
  unfold alignTo
  rw [this]
  cases neg <;> simp only [signOf, Bool.false_eq_true, if_false, if_true] <;> push_cast <;> ring

/-- The sign and the magnitude of an integer. -/
theorem signOf_natAbs (i : ℤ) : signOf (decide (i < 0)) * (i.natAbs : ℚ) = i := by
  rw [Nat.cast_natAbs, Int.cast_abs]
  rcases lt_or_ge i 0 with h | h
  · rw [abs_of_neg (by exact_mod_cast h)]
    simp [signOf, h]
  · rw [abs_of_nonneg (by exact_mod_cast h)]
    simp [signOf, not_lt.2 h]

/-- `signOf` of an exclusive or. -/
theorem signOf_xor (a b : Bool) : signOf (a != b) = signOf a * signOf b := by
  cases a <;> cases b <;> simp [signOf]

/-! ## Sums, products, quotients -/

/-- The sum of two numbers that is not 0, rounded once. -/
theorem FloatFmt.addVal_rounded {f : FloatFmt} (ok : f.Ok) {u v : FloatVal} {a b : ℚ} (hu : u.rat? = some a)
    (hv : v.rat? = some b) (h0 : a + b ≠ 0) : ∃ bits, f.addVal u v = some bits ∧ f.Rounded (a + b) bits := by
  obtain ⟨na, ma, ea, rfl, rfl⟩ := FloatVal.fin_of_rat? hu
  obtain ⟨nb, mb, eb, rfl, rfl⟩ := FloatVal.fin_of_rat? hv
  have hs : ((alignTo na ma ea (min ea eb) + alignTo nb mb eb (min ea eb) : ℤ) : ℚ) * 2 ^ min ea eb =
      signOf na * ma * 2 ^ ea + signOf nb * mb * 2 ^ eb := by
    push_cast
    rw [add_mul, alignTo_value _ _ (min_le_left _ _), alignTo_value _ _ (min_le_right _ _)]
  simp only [FloatFmt.addVal]
  rw [← hs] at h0 ⊢
  set sum := alignTo na ma ea (min ea eb) + alignTo nb mb eb (min ea eb)
  have hsum : sum ≠ 0 := by rintro e; simp [e] at h0
  refine ⟨_, if_neg hsum, ?_⟩
  have h := FloatFmt.round_rounded ok (decide (sum < 0)) (min ea eb) (Int.natAbs_pos.2 hsum)
  rwa [signOf_natAbs] at h

/-- A value with its sign flipped. -/
theorem FloatVal.rat?_neg {v : FloatVal} {x : ℚ} (h : v.rat? = some x) : v.neg.rat? = some (-x) := by
  obtain ⟨n, m, e, rfl, rfl⟩ := FloatVal.fin_of_rat? h
  simp only [FloatVal.neg, FloatVal.rat?_fin, Option.some.injEq]
  cases n <;> simp [signOf]

/-- The product of two numbers that is not 0, rounded once. -/
theorem FloatFmt.mulVal_rounded {f : FloatFmt} (ok : f.Ok) {u v : FloatVal} {a b : ℚ} (hu : u.rat? = some a)
    (hv : v.rat? = some b) (h0 : a * b ≠ 0) : ∃ bits, f.mulVal u v = some bits ∧ f.Rounded (a * b) bits := by
  obtain ⟨na, ma, ea, rfl, rfl⟩ := FloatVal.fin_of_rat? hu
  obtain ⟨nb, mb, eb, rfl, rfl⟩ := FloatVal.fin_of_rat? hv
  have two : (2 : ℚ) ≠ 0 := by norm_num
  have hs : signOf na * ma * 2 ^ ea * (signOf nb * mb * 2 ^ eb) = signOf (na != nb) * (ma * mb : ℕ) * 2 ^ (ea + eb) := by
    rw [signOf_xor, zpow_add₀ two]
    push_cast
    ring
  rw [hs] at h0 ⊢
  have hm : 0 < ma * mb := Nat.pos_of_ne_zero (by rintro e; simp [e] at h0)
  exact ⟨_, rfl, FloatFmt.round_rounded ok _ _ hm⟩

/-- The quotient of two numbers that is not 0, rounded once. -/
theorem FloatFmt.divVal_rounded {f : FloatFmt} (ok : f.Ok) {u v : FloatVal} {a b : ℚ} (hu : u.rat? = some a)
    (hv : v.rat? = some b) (h0 : a / b ≠ 0) : ∃ bits, f.divVal u v = some bits ∧ f.Rounded (a / b) bits := by
  obtain ⟨na, ma, ea, rfl, rfl⟩ := FloatVal.fin_of_rat? hu
  obtain ⟨nb, mb, eb, rfl, rfl⟩ := FloatVal.fin_of_rat? hv
  have hA := pow2Num_div_pow2Den ma ea
  have hB := pow2Num_div_pow2Den mb eb
  have pA : (0 : ℚ) < pow2Den ea := by exact_mod_cast pow2Den_pos ea
  have pB : (0 : ℚ) < pow2Den eb := by exact_mod_cast pow2Den_pos eb
  have hmb : mb ≠ 0 := by rintro rfl; simp at h0
  have hma : ma ≠ 0 := by rintro rfl; simp at h0
  have nA : 0 < pow2Num ma ea := by unfold pow2Num; split <;> positivity
  have nB : 0 < pow2Num mb eb := by unfold pow2Num; split <;> positivity
  have nA' : (0 : ℚ) < pow2Num ma ea := by exact_mod_cast nA
  have nB' : (0 : ℚ) < pow2Num mb eb := by exact_mod_cast nB
  have sB : signOf nb * signOf nb = 1 := by cases nb <;> simp [signOf]
  have sB0 : signOf nb ≠ 0 := by cases nb <;> simp [signOf]
  have hfrac : ((pow2Num ma ea * pow2Den eb : ℕ) : ℚ) / (pow2Num mb eb * pow2Den ea : ℕ) = ma * 2 ^ ea / (mb * 2 ^ eb) := by
    rw [← hA, ← hB]
    push_cast
    field_simp
  have hs : signOf na * ma * 2 ^ ea / (signOf nb * mb * 2 ^ eb) =
      signOf (na != nb) * ((pow2Num ma ea * pow2Den eb : ℕ) / (pow2Num mb eb * pow2Den ea : ℕ) : ℚ) := by
    rw [hfrac, signOf_xor, mul_assoc, mul_assoc, mul_div_mul_comm,
      show signOf na / signOf nb = signOf na * signOf nb by
        rw [div_eq_iff sB0, mul_assoc, sB, mul_one]]
  rw [hs] at h0 ⊢
  exact ⟨_, if_neg hmb, FloatFmt.roundFrac_rounded ok _ (Nat.mul_pos nA (pow2Den_pos eb))
    (Nat.mul_pos nB (pow2Den_pos ea))⟩

/-! ## Conversions -/

/-- An integer that is not 0, rounded once. -/
theorem FloatFmt.ofInt_rounded {f : FloatFmt} (ok : f.Ok) {i : ℤ} (h0 : i ≠ 0) : f.Rounded i (f.ofInt i) := by
  have h := FloatFmt.roundFrac_rounded ok (decide (i < 0)) (Int.natAbs_pos.2 h0) Nat.one_pos
  rwa [Nat.cast_one, div_one, signOf_natAbs] at h

/-- A value is an integer exactly where `integral?` says which. -/
theorem FloatVal.integral?_eq_some {v : FloatVal} {i : ℤ} : v.integral? = some i ↔ v.rat? = some (i : ℚ) := by
  cases v with
  | nan => simp [FloatVal.integral?, FloatVal.rat?]
  | inf => simp [FloatVal.integral?, FloatVal.rat?]
  | fin neg m e =>
    have hd := pow2Den_pos e
    have hd' : (pow2Den e : ℚ) ≠ 0 := by exact_mod_cast hd.ne'
    rw [FloatVal.rat?_fin, mul_assoc, ← pow2Num_div_pow2Den]
    have hden : m % pow2Den e = 0 ↔ pow2Num m e % pow2Den e = 0 := by
      unfold pow2Num pow2Den
      split <;> simp [Nat.mod_one]
    simp only [FloatVal.integral?, hden]
    by_cases h : pow2Num m e % pow2Den e = 0
    · obtain ⟨k, hk⟩ := Nat.dvd_of_mod_eq_zero h
      have h1 : pow2Num m e / pow2Den e = k := by rw [hk]; exact Nat.mul_div_cancel_left k hd
      have h2 : (pow2Num m e : ℚ) / pow2Den e = k := by rw [hk]; push_cast; field_simp
      rw [if_pos h, h2, h1]
      cases neg <;> simp only [signOf, Bool.false_eq_true, if_false, if_true, Option.some.injEq] <;>
        (rw [← Int.cast_inj (α := ℚ)]; push_cast; constructor <;> intro e' <;> linarith)
    · rw [if_neg h]
      constructor
      · intro e'; simp at e'
      · intro e'
        exfalso
        apply h
        have e' : signOf neg * ((pow2Num m e : ℚ) / pow2Den e) = i := by simpa using e'
        have : (pow2Num m e : ℤ) = (if neg then -1 else 1) * i * pow2Den e := by
          rw [← Int.cast_inj (α := ℚ)]
          push_cast
          have hs : (if neg = true then -1 else 1 : ℚ) * signOf neg = 1 := by cases neg <;> simp [signOf]
          rw [← e']
          field_simp
          linear_combination (-(pow2Num m e : ℚ)) * hs
        have hdvd : (pow2Den e : ℤ) ∣ (pow2Num m e : ℤ) := ⟨(if neg then -1 else 1) * i, by rw [this]; ring⟩
        exact Nat.mod_eq_zero_of_dvd (by exact_mod_cast hdvd)

/-! ## Comparison -/

/-- The order of two integers that stand for two numbers at one positive scale. -/
theorem orderInt_scaled {a b : ℤ} {x y s : ℚ} (hs : 0 < s) (hx : a * s = x) (hy : b * s = y) :
    (orderInt a b = .less ↔ x < y) ∧ (orderInt a b = .equal ↔ x = y) ∧ (orderInt a b = .greater ↔ y < x) := by
  have h1 : x < y ↔ a < b := by rw [← hx, ← hy, mul_lt_mul_iff_left₀ hs, Int.cast_lt]
  have h2 : x = y ↔ a = b := by rw [← hx, ← hy, mul_left_inj' hs.ne', Int.cast_inj]
  have h3 : y < x ↔ b < a := by rw [← hx, ← hy, mul_lt_mul_iff_left₀ hs, Int.cast_lt]
  rw [h1, h2, h3]
  unfold orderInt
  split
  · simp; omega
  · split
    · simp; omega
    · simp; omega

/-- What `order` answers of two values. -/
theorem FloatVal.order_spec (u v : FloatVal) :
    (u.order v = .less ↔ u.below v) ∧ (u.order v = .equal ↔ u.same v) ∧
      (u.order v = .unordered ↔ u = .nan ∨ v = .nan) := by
  cases u with
  | nan => simp [FloatVal.order, FloatVal.below, FloatVal.same, FloatVal.rat?]
  | inf na =>
    cases v with
    | nan => cases na <;> simp [FloatVal.order, FloatVal.below, FloatVal.same, FloatVal.rat?]
    | inf nb => cases na <;> cases nb <;> simp [FloatVal.order, FloatVal.below, FloatVal.same, FloatVal.rat?]
    | fin => cases na <;> simp [FloatVal.order, FloatVal.below, FloatVal.same, FloatVal.rat?]
  | fin na ma ea =>
    cases v with
    | nan => simp [FloatVal.order, FloatVal.below, FloatVal.same, FloatVal.rat?]
    | inf nb => cases nb <;> simp [FloatVal.order, FloatVal.below, FloatVal.same, FloatVal.rat?]
    | fin nb mb eb =>
      obtain ⟨h1, h2, -⟩ := orderInt_scaled (s := 2 ^ min ea eb) (by positivity)
        (alignTo_value na ma (min_le_left ea eb)) (alignTo_value nb mb (min_le_right ea eb))
      simp only [FloatVal.order, FloatVal.below, FloatVal.same, FloatVal.rat?_fin, Option.some.injEq, h1, h2,
        reduceCtorEq, or_self, iff_false]
      refine ⟨⟨fun h => ⟨_, _, rfl, rfl, h⟩, fun ⟨_, _, e, e', h⟩ => by rw [e, e']; exact h⟩,
        ⟨fun h => ⟨_, rfl, h.symm⟩, fun ⟨_, e, e'⟩ => e.trans e'.symm⟩, ?_⟩
      unfold orderInt
      split
      · simp
      · split <;> simp

/-! ## Square roots -/

/-- `isqrtFrom` ends at the floor of the square root, where it starts below it. -/
theorem isqrtFrom_spec (n : ℕ) : ∀ (k r : ℕ), r * r ≤ n → n < (r + 2 ^ k) * (r + 2 ^ k) →
    isqrtFrom n k r * isqrtFrom n k r ≤ n ∧ n < (isqrtFrom n k r + 1) * (isqrtFrom n k r + 1)
  | 0, r, h, h' => ⟨by simpa [isqrtFrom] using h, by simpa [isqrtFrom] using h'⟩
  | k + 1, r, h, h' => by
    simp only [isqrtFrom]
    split
    · rename_i ht
      exact isqrtFrom_spec n k _ ht (by rw [Nat.pow_succ] at h'; convert h' using 2 <;> ring)
    · rename_i ht
      exact isqrtFrom_spec n k _ h (by omega)

/-- The exponent of a finite encoding is at most the largest one. -/
theorem FloatFmt.unpack_exp_le {f : FloatFmt} (ok : f.Ok) {bits : ℕ} {neg : Bool} {m : ℕ} {e : ℤ}
    (h : f.unpack bits = .fin neg m e) : e ≤ f.minQuantum + (f.maxExp - 2 : ℕ) := by
  have hE : bits / 2 ^ f.fracBits % 2 ^ f.expBits < 2 ^ f.expBits := Nat.mod_lt _ (by positivity)
  have h3 := ok.maxExp_ge
  have hM : f.maxExp + 1 = 2 ^ f.expBits := Nat.sub_add_cancel Nat.one_le_two_pow
  simp only [FloatFmt.unpack] at h
  split at h
  · split at h <;> simp at h
  · split at h <;> simp only [FloatVal.fin.injEq] at h <;> omega

/-- Nonnegative values beside a significand at a quantum: a greater one lies half a quantum or more above, on average, and
a lesser one half a quantum or more below, except under the least significand of a binade. -/
theorem FloatFmt.value_beside {f : FloatFmt} {t mant : ℕ} (hl : 2 ^ f.fracBits ≤ mant) {other : ℕ} {w : ℚ}
    (hw : f.value other = some w) :
    let Q : ℚ := 2 ^ (f.minQuantum + t)
    (mant * Q < w → (mant + 1) * Q ≤ w) ∧ (w < mant * Q → w ≤ (mant - 1) * Q ∨ mant = 2 ^ f.fracBits) := by
  intro Q
  have two : (2 : ℚ) ≠ 0 := by norm_num
  have hQ : 0 < Q := by positivity
  obtain ⟨neg, m, t', rfl, hm⟩ := FloatFmt.value_form hw
  by_cases h : t ≤ t'
  · obtain ⟨e, rfl⟩ := Nat.exists_eq_add_of_le h
    obtain ⟨j, hj⟩ : ∃ j : ℤ, (j : ℚ) = signOf neg * m * 2 ^ e := by
      refine ⟨(if neg then -1 else 1) * m * 2 ^ e, ?_⟩
      cases neg <;> simp [signOf]
    have hw' : signOf neg * m * 2 ^ (f.minQuantum + (t + e : ℕ)) = j * Q := by
      rw [hj, show f.minQuantum + ((t + e : ℕ) : ℤ) = f.minQuantum + t + e by push_cast; ring, zpow_add₀ two, zpow_natCast]
      ring
    rw [hw']
    refine ⟨fun h1 => mul_le_mul_of_nonneg_right ?_ hQ.le, fun h1 => .inl (mul_le_mul_of_nonneg_right ?_ hQ.le)⟩
    · have h2 : (mant : ℤ) < j := by exact_mod_cast lt_of_mul_lt_mul_right h1 hQ.le
      exact_mod_cast (show (mant : ℤ) + 1 ≤ j by omega)
    · have h2 : j < (mant : ℤ) := by exact_mod_cast lt_of_mul_lt_mul_right h1 hQ.le
      have h3 : j ≤ (mant : ℤ) - 1 := by omega
      exact_mod_cast h3
  · have hW : |signOf neg * m * 2 ^ (f.minQuantum + (t' : ℤ))| < 2 ^ f.fracBits * Q := by
      rw [abs_mul, abs_mul, abs_signOf, one_mul, Nat.abs_cast, abs_of_pos (by positivity)]
      have h1 : (m : ℚ) < 2 ^ (f.fracBits + 1) := by exact_mod_cast hm
      have h2 : (2 : ℚ) ^ (f.minQuantum + (t' : ℤ)) ≤ 2 ^ (f.minQuantum + (t : ℤ) - 1) :=
        zpow_le_zpow_right₀ (by norm_num) (by omega)
      calc (m : ℚ) * 2 ^ (f.minQuantum + (t' : ℤ)) < 2 ^ (f.fracBits + 1) * 2 ^ (f.minQuantum + (t' : ℤ)) :=
            mul_lt_mul_of_pos_right h1 (by positivity)
        _ ≤ 2 ^ (f.fracBits + 1) * 2 ^ (f.minQuantum + (t : ℤ) - 1) := mul_le_mul_of_nonneg_left h2 (by positivity)
        _ = 2 ^ f.fracBits * Q := by rw [zpow_sub₀ two, pow_succ]; simp only [zpow_one, Q]; field_simp
    have hW := (le_abs_self _).trans_lt hW
    have hl' : (2 : ℚ) ^ f.fracBits ≤ mant := by exact_mod_cast hl
    refine ⟨fun h1 => ?_, fun _ => ?_⟩
    · have := mul_le_mul_of_nonneg_right hl' hQ.le
      linarith
    · rcases hl.eq_or_lt with h2 | h2
      · exact .inr h2.symm
      · left
        have h3 : (2 : ℚ) ^ f.fracBits + 1 ≤ mant := by exact_mod_cast h2
        have := mul_le_mul_of_nonneg_right (show (2 : ℚ) ^ f.fracBits ≤ mant - 1 by linarith) hQ.le
        linarith

/-- The integer nearest to a square root whose floor is `r`. -/
theorem rootMant_spec {n r a b : ℕ} (i1 : r * r ≤ n) (i2 : n < (r + 1) * (r + 1)) (h1 : a ≤ r) (h2 : r < b) :
    ∃ mant, (if r < n - r * r then r + 1 else r) = mant ∧ a ≤ mant ∧ mant ≤ b ∧ (mant * mant + 1 ≤ n + mant ∨ mant = 0) ∧
      n ≤ mant * mant + mant := by
  have e : (r + 1) * (r + 1) = r * r + r + r + 1 := by ring
  rw [e] at i2
  split
  · exact ⟨_, rfl, by omega, by omega, .inl (by omega), by omega⟩
  · exact ⟨_, rfl, by omega, by omega, by omega, by omega⟩

/-- The root of a positive finite value: no other value of the format is nearer to the exact root. -/
theorem FloatFmt.sqrtPos_nearest {f : FloatFmt} (ok : f.Ok) (hwide : f.fracBits + 2 ≤ 2 ^ (f.expBits - 1)) {m : ℕ} {e : ℤ}
    (hm : 0 < m) (hm' : m < 2 ^ (f.fracBits + 1)) (he : f.minQuantum ≤ e) (he' : e ≤ f.minQuantum + (f.maxExp - 2 : ℕ)) :
    ∃ r, f.value (f.sqrtPos m e) = some r ∧ 0 < r ∧
      ∀ other w, f.value other = some w → 0 ≤ w →
        (r < w → (m : ℚ) * 2 ^ e ≤ ((r + w) / 2) ^ 2) ∧ (w < r → ((r + w) / 2) ^ 2 ≤ (m : ℚ) * 2 ^ e) := by
  have two : (2 : ℚ) ≠ 0 := by norm_num
  have hL : Nat.log2 m < f.fracBits + 1 := (Nat.log2_lt hm.ne').2 hm'
  have hpow : f.maxExp = 2 * 2 ^ (f.expBits - 1) - 1 := by
    rw [FloatFmt.maxExp, ← Nat.pow_succ', Nat.succ_eq_add_one, Nat.sub_add_cancel (by have := ok.exp; omega)]
  have hmq : f.minQuantum = 2 - ((2 ^ (f.expBits - 1) : ℕ) : ℤ) - f.fracBits := by rw [FloatFmt.minQuantum]; push_cast; rfl
  have hp1 := ok.frac
  generalize hB : 2 ^ (f.expBits - 1) = B at *
  obtain ⟨t, hq⟩ : ∃ t : ℕ, ((Nat.log2 m : ℤ) + e) / 2 - f.fracBits = f.minQuantum + t :=
    ⟨(((Nat.log2 m : ℤ) + e) / 2 - f.fracBits - f.minQuantum).toNat, by omega⟩
  have ht : t + 3 ≤ f.maxExp := by omega
  obtain ⟨k, hk, hk1, hk2⟩ : ∃ k : ℕ, e - 2 * (f.minQuantum + t) = k ∧ 2 * f.fracBits ≤ Nat.log2 m + k ∧
      Nat.log2 m + k ≤ 2 * f.fracBits + 1 := ⟨(e - 2 * (f.minQuantum + t)).toNat, by omega, by omega, by omega⟩
  have hn : pow2Num m (e - 2 * (f.minQuantum + t)) = m * 2 ^ k := by rw [hk, pow2Num]; simp
  have n1 : 2 ^ f.fracBits * 2 ^ f.fracBits ≤ m * 2 ^ k := by
    have := Nat.mul_le_mul_right (2 ^ k) (Nat.log2_self_le hm.ne')
    rw [← Nat.pow_add] at this ⊢
    exact (Nat.pow_le_pow_right (by norm_num) (by omega)).trans this
  have n2 : m * 2 ^ k < 2 ^ (f.fracBits + 1) * 2 ^ (f.fracBits + 1) := by
    have := Nat.mul_lt_mul_of_pos_right (Nat.lt_log2_self (n := m)) (by positivity : 0 < 2 ^ k)
    rw [← Nat.pow_add] at this ⊢
    exact this.trans_le (Nat.pow_le_pow_right (by norm_num) (by omega))
  have hx : (m : ℚ) * 2 ^ e = (m * 2 ^ k : ℕ) * (2 ^ (f.minQuantum + t) * 2 ^ (f.minQuantum + t)) := by
    rw [show e = k + ((f.minQuantum + t) + (f.minQuantum + t)) by omega, zpow_add₀ two, zpow_add₀ two, zpow_natCast]
    push_cast
    ring
  rw [hx]
  simp only [FloatFmt.sqrtPos, hq, hn]
  generalize m * 2 ^ k = n at n1 n2 ⊢
  obtain ⟨i1, i2⟩ := isqrtFrom_spec n (f.fracBits + 2) 0 (by simp) (by
    rw [Nat.zero_add]
    refine n2.trans_le (Nat.mul_le_mul ?_ ?_) <;> exact Nat.pow_le_pow_right (by norm_num) (by omega))
  generalize isqrtFrom n (f.fracBits + 2) 0 = r at i1 i2 ⊢
  have r1 : 2 ^ f.fracBits ≤ r := Nat.le_of_lt_succ (Nat.mul_self_lt_mul_self_iff.1 (n1.trans_lt i2))
  have r2 : r < 2 ^ (f.fracBits + 1) := Nat.mul_self_lt_mul_self_iff.1 (i1.trans_lt n2)
  obtain ⟨mant, hmant, m1, m2, m3, m4⟩ := rootMant_spec i1 i2 r1 r2
  rw [hmant]
  have hfin : t * 2 ^ f.fracBits + mant < f.infMagnitude := by
    have : (t + 3) * 2 ^ f.fracBits ≤ f.maxExp * 2 ^ f.fracBits := Nat.mul_le_mul_right _ ht
    have hp : 0 < 2 ^ f.fracBits := by positivity
    rw [FloatFmt.infMagnitude]
    rw [Nat.pow_succ] at m2
    rw [Nat.add_mul] at this
    omega
  have hpack : f.pack mant (f.minQuantum + t) = f.signed false (t * 2 ^ f.fracBits + mant) := by
    rw [FloatFmt.pack, show (f.minQuantum + (t : ℤ) - f.minQuantum).toNat = t by omega]
    exact Nat.min_eq_left hfin.le
  have hv := f.value_signed false m2 (fun _ => m1) hfin
  rw [hpack, hv]
  have hQ : (0 : ℚ) < 2 ^ (f.minQuantum + (t : ℤ)) := by positivity
  have hm0 : (0 : ℚ) < mant := by exact_mod_cast (Nat.two_pow_pos f.fracBits).trans_le m1
  have m3 : mant * mant + 1 ≤ n + mant := m3.resolve_right (by have := Nat.two_pow_pos f.fracBits; omega)
  have m3' : (mant : ℚ) * mant + 1 ≤ n + mant := by exact_mod_cast m3
  have m4' : (n : ℚ) ≤ mant * mant + mant := by exact_mod_cast m4
  refine ⟨_, rfl, by simpa [signOf] using mul_pos hm0 hQ, fun other w hw w0 => ?_⟩
  obtain ⟨b1, b2⟩ := FloatFmt.value_beside (t := t) m1 hw
  simp only [signOf, Bool.false_eq_true, if_false, one_mul]
  generalize (2 : ℚ) ^ (f.minQuantum + (t : ℤ)) = Q at *
  have hsq : (mant * Q) ^ 2 = mant * mant * (Q * Q) := by ring
  refine ⟨fun h => ?_, fun h => ?_⟩
  · have h1 : (mant + 1 / 2) * Q ≤ (mant * Q + w) / 2 := by linarith [b1 h]
    have h2 := pow_le_pow_left₀ (by positivity) h1 2
    have h3 : (n : ℚ) * (Q * Q) ≤ (mant * mant + mant) * (Q * Q) := mul_le_mul_of_nonneg_right m4' (by positivity)
    nlinarith [mul_pos hQ hQ]
  · rcases b2 h with h1 | h1
    · have h1 : (mant * Q + w) / 2 ≤ (mant - 1 / 2) * Q := by linarith
      have h2 := pow_le_pow_left₀ (by positivity) h1 2
      have h3 := mul_le_mul_of_nonneg_right m3' (by positivity : 0 ≤ Q * Q)
      nlinarith [mul_pos hQ hQ]
    · have h2 := pow_le_pow_left₀ (by positivity) (show (mant * Q + w) / 2 ≤ mant * Q by linarith) 2
      have h3 : (mant : ℚ) * mant ≤ n := by rw [h1]; exact_mod_cast n1
      have := mul_le_mul_of_nonneg_right h3 (by positivity : 0 ≤ Q * Q)
      linarith

end Sys2Proof.Machine
end

