-- ==== Sys2Proof/Laws/PerInstr.lean ====
section
/-! SUPPORT. The family RoundTrip, one lemma per constructor: what the encoder writes, the decoder reads back. -/

namespace Sys2Proof.Laws.RoundTrip

/-- The decoder reads an instruction's own word as that instruction. -/
def Statement (i : Instr) : Prop := i.wellFormed = true → decodeWord (encode i) = .instr i

theorem nop (sa : BitVec 5) : Statement (.nop sa) := by
  intro h
  show decodeWord (rWord 0x00 0 0 0 sa 0) = _
  rw [decodeWord_at (n := 0) (by simp)]
  rw [show decodeWordAt 0 _ = decodeSpecial _ from rfl, decodeSpecial_at (n := 0) (by simp)]
  rw [show decodeSpecialAt 0 _ = decodeShiftLeft _ from rfl]
  have h : (sa != 1 && sa != 3) = true := h
  simp_all [decodeShiftLeft]

theorem sll (rd : Reg) (rt : Reg) (sa : BitVec 5) : Statement (.sll rd rt sa) := by
  intro h
  show decodeWord (rWord 0x00 0 rt rd sa 0) = _
  rw [decodeWord_at (n := 0) (by simp)]
  rw [show decodeWordAt 0 _ = decodeSpecial _ from rfl, decodeSpecial_at (n := 0) (by simp)]
  rw [show decodeSpecialAt 0 _ = decodeShiftLeft _ from rfl]
  have h : (!(rt == 0 && rd == 0)) = true := h
  simp [decodeShiftLeft] at h ⊢
  grind

theorem srl (rd : Reg) (rt : Reg) (sa : BitVec 5) : Statement (.srl rd rt sa) := by
  intro _
  show decodeWord (rWord 0x00 0 rt rd sa 2) = _
  rw [decodeWord_at (n := 0) (by simp)]
  rw [show decodeWordAt 0 _ = decodeSpecial _ from rfl, decodeSpecial_at (n := 2) (by simp)]
  show (if _ then _ else _) = _
  simp

theorem sra (rd : Reg) (rt : Reg) (sa : BitVec 5) : Statement (.sra rd rt sa) := by
  intro _
  show decodeWord (rWord 0x00 0 rt rd sa 3) = _
  rw [decodeWord_at (n := 0) (by simp)]
  rw [show decodeWordAt 0 _ = decodeSpecial _ from rfl, decodeSpecial_at (n := 3) (by simp)]
  show Leaf.guard _ _ = _
  simp [Leaf.guard]

theorem sllv (rd : Reg) (rt : Reg) (rs : Reg) : Statement (.sllv rd rt rs) := by
  intro _
  show decodeWord (rWord 0x00 rs rt rd 0 4) = _
  rw [decodeWord_at (n := 0) (by simp)]
  rw [show decodeWordAt 0 _ = decodeSpecial _ from rfl, decodeSpecial_at (n := 4) (by simp)]
  show Leaf.guard _ _ = _
  simp [Leaf.guard]

theorem srlv (rd : Reg) (rt : Reg) (rs : Reg) : Statement (.srlv rd rt rs) := by
  intro _
  show decodeWord (rWord 0x00 rs rt rd 0 6) = _
  rw [decodeWord_at (n := 0) (by simp)]
  rw [show decodeWordAt 0 _ = decodeSpecial _ from rfl, decodeSpecial_at (n := 6) (by simp)]
  show (if _ then _ else _) = _
  simp

theorem srav (rd : Reg) (rt : Reg) (rs : Reg) : Statement (.srav rd rt rs) := by
  intro _
  show decodeWord (rWord 0x00 rs rt rd 0 7) = _
  rw [decodeWord_at (n := 0) (by simp)]
  rw [show decodeWordAt 0 _ = decodeSpecial _ from rfl, decodeSpecial_at (n := 7) (by simp)]
  show Leaf.guard _ _ = _
  simp [Leaf.guard]

theorem jr (rs : Reg) : Statement (.jr rs) := by
  intro _
  show decodeWord (rWord 0x00 rs 0 0 0 8) = _
  rw [decodeWord_at (n := 0) (by simp)]
  rw [show decodeWordAt 0 _ = decodeSpecial _ from rfl, decodeSpecial_at (n := 8) (by simp)]
  show (if _ then _ else _) = _
  simp [Field.hb, Leaf.guard]

theorem jalr (rd : Reg) (rs : Reg) : Statement (.jalr rd rs) := by
  intro _
  show decodeWord (rWord 0x00 rs 0 rd 0 9) = _
  rw [decodeWord_at (n := 0) (by simp)]
  rw [show decodeWordAt 0 _ = decodeSpecial _ from rfl, decodeSpecial_at (n := 9) (by simp)]
  show (if _ then _ else _) = _
  simp [Field.hb, Leaf.guard]

theorem syscall (code : BitVec 20) : Statement (.syscall code) := by
  intro _
  show decodeWord (codeWord code 12) = _
  rw [decodeWord_at (n := 0) (by simp)]
  rw [show decodeWordAt 0 _ = decodeSpecial _ from rfl, decodeSpecial_at (n := 12) (by simp)]
  show Leaf.instr _ = _
  simp

theorem brk (code : BitVec 20) : Statement (.brk code) := by
  intro _
  show decodeWord (codeWord code 13) = _
  rw [decodeWord_at (n := 0) (by simp)]
  rw [show decodeWordAt 0 _ = decodeSpecial _ from rfl, decodeSpecial_at (n := 13) (by simp)]
  show Leaf.instr _ = _
  simp

theorem sync (stype : BitVec 5) : Statement (.sync stype) := by
  intro _
  show decodeWord (rWord 0x00 0 0 0 stype 15) = _
  rw [decodeWord_at (n := 0) (by simp)]
  rw [show decodeWordAt 0 _ = decodeSpecial _ from rfl, decodeSpecial_at (n := 15) (by simp)]
  show Leaf.guard _ _ = _
  simp [Leaf.guard]

theorem mfhi (rd : Reg) : Statement (.mfhi rd) := by
  intro _
  show decodeWord (rWord 0x00 0 0 rd 0 16) = _
  rw [decodeWord_at (n := 0) (by simp)]
  rw [show decodeWordAt 0 _ = decodeSpecial _ from rfl, decodeSpecial_at (n := 16) (by simp)]
  show Leaf.guard _ _ = _
  simp [Leaf.guard]

theorem mthi (rs : Reg) : Statement (.mthi rs) := by
  intro _
  show decodeWord (rWord 0x00 rs 0 0 0 17) = _
  rw [decodeWord_at (n := 0) (by simp)]
  rw [show decodeWordAt 0 _ = decodeSpecial _ from rfl, decodeSpecial_at (n := 17) (by simp)]
  show Leaf.guard _ _ = _
  simp [Leaf.guard]

theorem mflo (rd : Reg) : Statement (.mflo rd) := by
  intro _
  show decodeWord (rWord 0x00 0 0 rd 0 18) = _
  rw [decodeWord_at (n := 0) (by simp)]
  rw [show decodeWordAt 0 _ = decodeSpecial _ from rfl, decodeSpecial_at (n := 18) (by simp)]
  show Leaf.guard _ _ = _
  simp [Leaf.guard]

theorem mtlo (rs : Reg) : Statement (.mtlo rs) := by
  intro _
  show decodeWord (rWord 0x00 rs 0 0 0 19) = _
  rw [decodeWord_at (n := 0) (by simp)]
  rw [show decodeWordAt 0 _ = decodeSpecial _ from rfl, decodeSpecial_at (n := 19) (by simp)]
  show Leaf.guard _ _ = _
  simp [Leaf.guard]

theorem mult (rs : Reg) (rt : Reg) : Statement (.mult rs rt) := by
  intro _
  show decodeWord (rWord 0x00 rs rt 0 0 24) = _
  rw [decodeWord_at (n := 0) (by simp)]
  rw [show decodeWordAt 0 _ = decodeSpecial _ from rfl, decodeSpecial_at (n := 24) (by simp)]
  show Leaf.guard _ _ = _
  simp [Leaf.guard]

theorem multu (rs : Reg) (rt : Reg) : Statement (.multu rs rt) := by
  intro _
  show decodeWord (rWord 0x00 rs rt 0 0 25) = _
  rw [decodeWord_at (n := 0) (by simp)]
  rw [show decodeWordAt 0 _ = decodeSpecial _ from rfl, decodeSpecial_at (n := 25) (by simp)]
  show Leaf.guard _ _ = _
  simp [Leaf.guard]

theorem div (rs : Reg) (rt : Reg) : Statement (.div rs rt) := by
  intro _
  show decodeWord (rWord 0x00 rs rt 0 0 26) = _
  rw [decodeWord_at (n := 0) (by simp)]
  rw [show decodeWordAt 0 _ = decodeSpecial _ from rfl, decodeSpecial_at (n := 26) (by simp)]
  show Leaf.guard _ _ = _
  simp [Leaf.guard]

theorem divu (rs : Reg) (rt : Reg) : Statement (.divu rs rt) := by
  intro _
  show decodeWord (rWord 0x00 rs rt 0 0 27) = _
  rw [decodeWord_at (n := 0) (by simp)]
  rw [show decodeWordAt 0 _ = decodeSpecial _ from rfl, decodeSpecial_at (n := 27) (by simp)]
  show Leaf.guard _ _ = _
  simp [Leaf.guard]

theorem add (rd : Reg) (rs : Reg) (rt : Reg) : Statement (.add rd rs rt) := by
  intro _
  show decodeWord (rWord 0x00 rs rt rd 0 32) = _
  rw [decodeWord_at (n := 0) (by simp)]
  rw [show decodeWordAt 0 _ = decodeSpecial _ from rfl, decodeSpecial_at (n := 32) (by simp)]
  show Leaf.guard _ _ = _
  simp [Leaf.guard]

theorem addu (rd : Reg) (rs : Reg) (rt : Reg) : Statement (.addu rd rs rt) := by
  intro _
  show decodeWord (rWord 0x00 rs rt rd 0 33) = _
  rw [decodeWord_at (n := 0) (by simp)]
  rw [show decodeWordAt 0 _ = decodeSpecial _ from rfl, decodeSpecial_at (n := 33) (by simp)]
  show Leaf.guard _ _ = _
  simp [Leaf.guard]

theorem sub (rd : Reg) (rs : Reg) (rt : Reg) : Statement (.sub rd rs rt) := by
  intro _
  show decodeWord (rWord 0x00 rs rt rd 0 34) = _
  rw [decodeWord_at (n := 0) (by simp)]
  rw [show decodeWordAt 0 _ = decodeSpecial _ from rfl, decodeSpecial_at (n := 34) (by simp)]
  show Leaf.guard _ _ = _
  simp [Leaf.guard]

theorem subu (rd : Reg) (rs : Reg) (rt : Reg) : Statement (.subu rd rs rt) := by
  intro _
  show decodeWord (rWord 0x00 rs rt rd 0 35) = _
  rw [decodeWord_at (n := 0) (by simp)]
  rw [show decodeWordAt 0 _ = decodeSpecial _ from rfl, decodeSpecial_at (n := 35) (by simp)]
  show Leaf.guard _ _ = _
  simp [Leaf.guard]

theorem and (rd : Reg) (rs : Reg) (rt : Reg) : Statement (.and rd rs rt) := by
  intro _
  show decodeWord (rWord 0x00 rs rt rd 0 36) = _
  rw [decodeWord_at (n := 0) (by simp)]
  rw [show decodeWordAt 0 _ = decodeSpecial _ from rfl, decodeSpecial_at (n := 36) (by simp)]
  show Leaf.guard _ _ = _
  simp [Leaf.guard]

theorem or (rd : Reg) (rs : Reg) (rt : Reg) : Statement (.or rd rs rt) := by
  intro _
  show decodeWord (rWord 0x00 rs rt rd 0 37) = _
  rw [decodeWord_at (n := 0) (by simp)]
  rw [show decodeWordAt 0 _ = decodeSpecial _ from rfl, decodeSpecial_at (n := 37) (by simp)]
  show Leaf.guard _ _ = _
  simp [Leaf.guard]

theorem xor (rd : Reg) (rs : Reg) (rt : Reg) : Statement (.xor rd rs rt) := by
  intro _
  show decodeWord (rWord 0x00 rs rt rd 0 38) = _
  rw [decodeWord_at (n := 0) (by simp)]
  rw [show decodeWordAt 0 _ = decodeSpecial _ from rfl, decodeSpecial_at (n := 38) (by simp)]
  show Leaf.guard _ _ = _
  simp [Leaf.guard]

theorem nor (rd : Reg) (rs : Reg) (rt : Reg) : Statement (.nor rd rs rt) := by
  intro _
  show decodeWord (rWord 0x00 rs rt rd 0 39) = _
  rw [decodeWord_at (n := 0) (by simp)]
  rw [show decodeWordAt 0 _ = decodeSpecial _ from rfl, decodeSpecial_at (n := 39) (by simp)]
  show Leaf.guard _ _ = _
  simp [Leaf.guard]

theorem slt (rd : Reg) (rs : Reg) (rt : Reg) : Statement (.slt rd rs rt) := by
  intro _
  show decodeWord (rWord 0x00 rs rt rd 0 42) = _
  rw [decodeWord_at (n := 0) (by simp)]
  rw [show decodeWordAt 0 _ = decodeSpecial _ from rfl, decodeSpecial_at (n := 42) (by simp)]
  show Leaf.guard _ _ = _
  simp [Leaf.guard]

theorem sltu (rd : Reg) (rs : Reg) (rt : Reg) : Statement (.sltu rd rs rt) := by
  intro _
  show decodeWord (rWord 0x00 rs rt rd 0 43) = _
  rw [decodeWord_at (n := 0) (by simp)]
  rw [show decodeWordAt 0 _ = decodeSpecial _ from rfl, decodeSpecial_at (n := 43) (by simp)]
  show Leaf.guard _ _ = _
  simp [Leaf.guard]

theorem tge (rs : Reg) (rt : Reg) (code : BitVec 10) : Statement (.tge rs rt code) := by
  intro _
  show decodeWord (trapWord rs rt code 48) = _
  rw [decodeWord_at (n := 0) (by simp)]
  rw [show decodeWordAt 0 _ = decodeSpecial _ from rfl, decodeSpecial_at (n := 48) (by simp)]
  show Leaf.instr _ = _
  simp

theorem tgeu (rs : Reg) (rt : Reg) (code : BitVec 10) : Statement (.tgeu rs rt code) := by
  intro _
  show decodeWord (trapWord rs rt code 49) = _
  rw [decodeWord_at (n := 0) (by simp)]
  rw [show decodeWordAt 0 _ = decodeSpecial _ from rfl, decodeSpecial_at (n := 49) (by simp)]
  show Leaf.instr _ = _
  simp

theorem tlt (rs : Reg) (rt : Reg) (code : BitVec 10) : Statement (.tlt rs rt code) := by
  intro _
  show decodeWord (trapWord rs rt code 50) = _
  rw [decodeWord_at (n := 0) (by simp)]
  rw [show decodeWordAt 0 _ = decodeSpecial _ from rfl, decodeSpecial_at (n := 50) (by simp)]
  show Leaf.instr _ = _
  simp

theorem tltu (rs : Reg) (rt : Reg) (code : BitVec 10) : Statement (.tltu rs rt code) := by
  intro _
  show decodeWord (trapWord rs rt code 51) = _
  rw [decodeWord_at (n := 0) (by simp)]
  rw [show decodeWordAt 0 _ = decodeSpecial _ from rfl, decodeSpecial_at (n := 51) (by simp)]
  show Leaf.instr _ = _
  simp

theorem teq (rs : Reg) (rt : Reg) (code : BitVec 10) : Statement (.teq rs rt code) := by
  intro _
  show decodeWord (trapWord rs rt code 52) = _
  rw [decodeWord_at (n := 0) (by simp)]
  rw [show decodeWordAt 0 _ = decodeSpecial _ from rfl, decodeSpecial_at (n := 52) (by simp)]
  show Leaf.instr _ = _
  simp

theorem tne (rs : Reg) (rt : Reg) (code : BitVec 10) : Statement (.tne rs rt code) := by
  intro _
  show decodeWord (trapWord rs rt code 54) = _
  rw [decodeWord_at (n := 0) (by simp)]
  rw [show decodeWordAt 0 _ = decodeSpecial _ from rfl, decodeSpecial_at (n := 54) (by simp)]
  show Leaf.instr _ = _
  simp

theorem bltz (rs : Reg) (offset : BitVec 16) : Statement (.bltz rs offset) := by
  intro _
  show decodeWord (iWord 0x01 rs 0 offset) = _
  rw [decodeWord_at (n := 1) (by simp)]
  rw [show decodeWordAt 1 _ = decodeRegimm _ from rfl, decodeRegimm_at (n := 0) (by simp)]
  show Leaf.instr _ = _
  simp

theorem bgez (rs : Reg) (offset : BitVec 16) : Statement (.bgez rs offset) := by
  intro _
  show decodeWord (iWord 0x01 rs 1 offset) = _
  rw [decodeWord_at (n := 1) (by simp)]
  rw [show decodeWordAt 1 _ = decodeRegimm _ from rfl, decodeRegimm_at (n := 1) (by simp)]
  show Leaf.instr _ = _
  simp

theorem tgei (rs : Reg) (imm : BitVec 16) : Statement (.tgei rs imm) := by
  intro _
  show decodeWord (iWord 0x01 rs 8 imm) = _
  rw [decodeWord_at (n := 1) (by simp)]
  rw [show decodeWordAt 1 _ = decodeRegimm _ from rfl, decodeRegimm_at (n := 8) (by simp)]
  show Leaf.instr _ = _
  simp

theorem tgeiu (rs : Reg) (imm : BitVec 16) : Statement (.tgeiu rs imm) := by
  intro _
  show decodeWord (iWord 0x01 rs 9 imm) = _
  rw [decodeWord_at (n := 1) (by simp)]
  rw [show decodeWordAt 1 _ = decodeRegimm _ from rfl, decodeRegimm_at (n := 9) (by simp)]
  show Leaf.instr _ = _
  simp

theorem tlti (rs : Reg) (imm : BitVec 16) : Statement (.tlti rs imm) := by
  intro _
  show decodeWord (iWord 0x01 rs 10 imm) = _
  rw [decodeWord_at (n := 1) (by simp)]
  rw [show decodeWordAt 1 _ = decodeRegimm _ from rfl, decodeRegimm_at (n := 10) (by simp)]
  show Leaf.instr _ = _
  simp

theorem tltiu (rs : Reg) (imm : BitVec 16) : Statement (.tltiu rs imm) := by
  intro _
  show decodeWord (iWord 0x01 rs 11 imm) = _
  rw [decodeWord_at (n := 1) (by simp)]
  rw [show decodeWordAt 1 _ = decodeRegimm _ from rfl, decodeRegimm_at (n := 11) (by simp)]
  show Leaf.instr _ = _
  simp

theorem teqi (rs : Reg) (imm : BitVec 16) : Statement (.teqi rs imm) := by
  intro _
  show decodeWord (iWord 0x01 rs 12 imm) = _
  rw [decodeWord_at (n := 1) (by simp)]
  rw [show decodeWordAt 1 _ = decodeRegimm _ from rfl, decodeRegimm_at (n := 12) (by simp)]
  show Leaf.instr _ = _
  simp

theorem tnei (rs : Reg) (imm : BitVec 16) : Statement (.tnei rs imm) := by
  intro _
  show decodeWord (iWord 0x01 rs 14 imm) = _
  rw [decodeWord_at (n := 1) (by simp)]
  rw [show decodeWordAt 1 _ = decodeRegimm _ from rfl, decodeRegimm_at (n := 14) (by simp)]
  show Leaf.instr _ = _
  simp

theorem bltzal (rs : Reg) (offset : BitVec 16) : Statement (.bltzal rs offset) := by
  intro _
  show decodeWord (iWord 0x01 rs 16 offset) = _
  rw [decodeWord_at (n := 1) (by simp)]
  rw [show decodeWordAt 1 _ = decodeRegimm _ from rfl, decodeRegimm_at (n := 16) (by simp)]
  show Leaf.instr _ = _
  simp

theorem bal (offset : BitVec 16) : Statement (.bal offset) := by
  intro _
  show decodeWord (iWord 0x01 0 17 offset) = _
  rw [decodeWord_at (n := 1) (by simp)]
  rw [show decodeWordAt 1 _ = decodeRegimm _ from rfl, decodeRegimm_at (n := 17) (by simp)]
  show (if _ then _ else _) = _
  simp

theorem bgezal (rs : Reg) (offset : BitVec 16) : Statement (.bgezal rs offset) := by
  intro h
  show decodeWord (iWord 0x01 rs 17 offset) = _
  rw [decodeWord_at (n := 1) (by simp)]
  rw [show decodeWordAt 1 _ = decodeRegimm _ from rfl, decodeRegimm_at (n := 17) (by simp)]
  show (if _ then _ else _) = _
  have h : (rs != 0) = true := h
  simp_all

theorem j (target : BitVec 26) : Statement (.j target) := by
  intro _
  show decodeWord (jWord 0x02 target) = _
  rw [decodeWord_at (n := 2) (by simp)]
  show Leaf.instr _ = _
  simp

theorem jal (target : BitVec 26) : Statement (.jal target) := by
  intro _
  show decodeWord (jWord 0x03 target) = _
  rw [decodeWord_at (n := 3) (by simp)]
  show Leaf.instr _ = _
  simp

theorem b (offset : BitVec 16) : Statement (.b offset) := by
  intro _
  show decodeWord (iWord 0x04 0 0 offset) = _
  rw [decodeWord_at (n := 4) (by simp)]
  show (if _ then _ else _) = _
  simp

theorem beq (rs : Reg) (rt : Reg) (offset : BitVec 16) : Statement (.beq rs rt offset) := by
  intro h
  show decodeWord (iWord 0x04 rs rt offset) = _
  rw [decodeWord_at (n := 4) (by simp)]
  show (if _ then _ else _) = _
  have h : (!(rs == 0 && rt == 0)) = true := h
  simp at h ⊢
  grind

theorem bne (rs : Reg) (rt : Reg) (offset : BitVec 16) : Statement (.bne rs rt offset) := by
  intro _
  show decodeWord (iWord 0x05 rs rt offset) = _
  rw [decodeWord_at (n := 5) (by simp)]
  show Leaf.instr _ = _
  simp

theorem blez (rs : Reg) (offset : BitVec 16) : Statement (.blez rs offset) := by
  intro _
  show decodeWord (iWord 0x06 rs 0 offset) = _
  rw [decodeWord_at (n := 6) (by simp)]
  show Leaf.guard _ _ = _
  simp [Leaf.guard]

theorem bgtz (rs : Reg) (offset : BitVec 16) : Statement (.bgtz rs offset) := by
  intro _
  show decodeWord (iWord 0x07 rs 0 offset) = _
  rw [decodeWord_at (n := 7) (by simp)]
  show Leaf.guard _ _ = _
  simp [Leaf.guard]

theorem addi (rt : Reg) (rs : Reg) (imm : BitVec 16) : Statement (.addi rt rs imm) := by
  intro _
  show decodeWord (iWord 0x08 rs rt imm) = _
  rw [decodeWord_at (n := 8) (by simp)]
  show Leaf.instr _ = _
  simp

theorem addiu (rt : Reg) (rs : Reg) (imm : BitVec 16) : Statement (.addiu rt rs imm) := by
  intro _
  show decodeWord (iWord 0x09 rs rt imm) = _
  rw [decodeWord_at (n := 9) (by simp)]
  show Leaf.instr _ = _
  simp

theorem slti (rt : Reg) (rs : Reg) (imm : BitVec 16) : Statement (.slti rt rs imm) := by
  intro _
  show decodeWord (iWord 0x0A rs rt imm) = _
  rw [decodeWord_at (n := 10) (by simp)]
  show Leaf.instr _ = _
  simp

theorem sltiu (rt : Reg) (rs : Reg) (imm : BitVec 16) : Statement (.sltiu rt rs imm) := by
  intro h
  show decodeWord (iWord 0x0B rs rt imm) = _
  rw [decodeWord_at (n := 11) (by simp)]
  rw [show decodeWordAt 11 _ = decodeSltiu _ from rfl]
  have h : (!(rs == 0 && rt == 0 && (imm == 0xabc1 || imm == 0xabc2))) = true := h
  simp [decodeSltiu] at h ⊢
  grind

theorem andi (rt : Reg) (rs : Reg) (imm : BitVec 16) : Statement (.andi rt rs imm) := by
  intro _
  show decodeWord (iWord 0x0C rs rt imm) = _
  rw [decodeWord_at (n := 12) (by simp)]
  show Leaf.instr _ = _
  simp

theorem ori (rt : Reg) (rs : Reg) (imm : BitVec 16) : Statement (.ori rt rs imm) := by
  intro _
  show decodeWord (iWord 0x0D rs rt imm) = _
  rw [decodeWord_at (n := 13) (by simp)]
  show Leaf.instr _ = _
  simp

theorem xori (rt : Reg) (rs : Reg) (imm : BitVec 16) : Statement (.xori rt rs imm) := by
  intro _
  show decodeWord (iWord 0x0E rs rt imm) = _
  rw [decodeWord_at (n := 14) (by simp)]
  show Leaf.instr _ = _
  simp

theorem lui (rt : Reg) (imm : BitVec 16) : Statement (.lui rt imm) := by
  intro _
  show decodeWord (iWord 0x0F 0 rt imm) = _
  rw [decodeWord_at (n := 15) (by simp)]
  show Leaf.guard _ _ = _
  simp [Leaf.guard]

theorem mfc1 (rt : Reg) (fs : Reg) : Statement (.mfc1 rt fs) := by
  intro _
  show decodeWord (rWord 0x11 0 rt fs 0 0) = _
  rw [decodeWord_at (n := 17) (by simp)]
  rw [show decodeWordAt 17 _ = decodeCop1 _ from rfl, decodeCop1_at (n := 0) (by simp)]
  show Leaf.guard _ _ = _
  simp [Leaf.guard, low11Zero]

theorem cfc1 (rt : Reg) (fs : Reg) : Statement (.cfc1 rt fs) := by
  intro _
  show decodeWord (rWord 0x11 2 rt fs 0 0) = _
  rw [decodeWord_at (n := 17) (by simp)]
  rw [show decodeWordAt 17 _ = decodeCop1 _ from rfl, decodeCop1_at (n := 2) (by simp)]
  show Leaf.guard _ _ = _
  simp [Leaf.guard, low11Zero]

theorem mtc1 (rt : Reg) (fs : Reg) : Statement (.mtc1 rt fs) := by
  intro _
  show decodeWord (rWord 0x11 4 rt fs 0 0) = _
  rw [decodeWord_at (n := 17) (by simp)]
  rw [show decodeWordAt 17 _ = decodeCop1 _ from rfl, decodeCop1_at (n := 4) (by simp)]
  show Leaf.guard _ _ = _
  simp [Leaf.guard, low11Zero]

theorem ctc1 (rt : Reg) (fs : Reg) : Statement (.ctc1 rt fs) := by
  intro _
  show decodeWord (rWord 0x11 6 rt fs 0 0) = _
  rw [decodeWord_at (n := 17) (by simp)]
  rw [show decodeWordAt 17 _ = decodeCop1 _ from rfl, decodeCop1_at (n := 6) (by simp)]
  show Leaf.guard _ _ = _
  simp [Leaf.guard, low11Zero]

theorem bc1f (cc : BitVec 3) (offset : BitVec 16) : Statement (.bc1f cc offset) := by
  intro _
  show decodeWord (bc1Word cc 0 offset) = _
  rw [decodeWord_at (n := 17) (by simp)]
  rw [show decodeWordAt 17 _ = decodeCop1 _ from rfl, decodeCop1_at (n := 8) (by simp)]
  show decodeBc1At _ _ = _
  simp only [Field.ndTf_bc1Word]
  show Leaf.instr _ = _
  simp

theorem bc1t (cc : BitVec 3) (offset : BitVec 16) : Statement (.bc1t cc offset) := by
  intro _
  show decodeWord (bc1Word cc 1 offset) = _
  rw [decodeWord_at (n := 17) (by simp)]
  rw [show decodeWordAt 17 _ = decodeCop1 _ from rfl, decodeCop1_at (n := 8) (by simp)]
  show decodeBc1At _ _ = _
  simp only [Field.ndTf_bc1Word]
  show Leaf.instr _ = _
  simp

theorem bc1fl (cc : BitVec 3) (offset : BitVec 16) : Statement (.bc1fl cc offset) := by
  intro _
  show decodeWord (bc1Word cc 2 offset) = _
  rw [decodeWord_at (n := 17) (by simp)]
  rw [show decodeWordAt 17 _ = decodeCop1 _ from rfl, decodeCop1_at (n := 8) (by simp)]
  show decodeBc1At _ _ = _
  simp only [Field.ndTf_bc1Word]
  show Leaf.instr _ = _
  simp

theorem bc1tl (cc : BitVec 3) (offset : BitVec 16) : Statement (.bc1tl cc offset) := by
  intro _
  show decodeWord (bc1Word cc 3 offset) = _
  rw [decodeWord_at (n := 17) (by simp)]
  rw [show decodeWordAt 17 _ = decodeCop1 _ from rfl, decodeCop1_at (n := 8) (by simp)]
  show decodeBc1At _ _ = _
  simp only [Field.ndTf_bc1Word]
  show Leaf.instr _ = _
  simp

theorem addS (fd : Reg) (fs : Reg) (ft : Reg) : Statement (.addS fd fs ft) := by
  intro _
  show decodeWord (rWord 0x11 16 ft fs fd 0) = _
  rw [decodeWord_at (n := 17) (by simp)]
  rw [show decodeWordAt 17 _ = decodeCop1 _ from rfl, decodeCop1_at (n := 16) (by simp)]
  rw [show decodeCop1At 16 _ = decodeCop1S _ from rfl, decodeCop1S_at (n := 0) (by simp)]
  show Leaf.instr _ = _
  simp

theorem subS (fd : Reg) (fs : Reg) (ft : Reg) : Statement (.subS fd fs ft) := by
  intro _
  show decodeWord (rWord 0x11 16 ft fs fd 1) = _
  rw [decodeWord_at (n := 17) (by simp)]
  rw [show decodeWordAt 17 _ = decodeCop1 _ from rfl, decodeCop1_at (n := 16) (by simp)]
  rw [show decodeCop1At 16 _ = decodeCop1S _ from rfl, decodeCop1S_at (n := 1) (by simp)]
  show Leaf.instr _ = _
  simp

theorem mulS (fd : Reg) (fs : Reg) (ft : Reg) : Statement (.mulS fd fs ft) := by
  intro _
  show decodeWord (rWord 0x11 16 ft fs fd 2) = _
  rw [decodeWord_at (n := 17) (by simp)]
  rw [show decodeWordAt 17 _ = decodeCop1 _ from rfl, decodeCop1_at (n := 16) (by simp)]
  rw [show decodeCop1At 16 _ = decodeCop1S _ from rfl, decodeCop1S_at (n := 2) (by simp)]
  show Leaf.instr _ = _
  simp

theorem divS (fd : Reg) (fs : Reg) (ft : Reg) : Statement (.divS fd fs ft) := by
  intro _
  show decodeWord (rWord 0x11 16 ft fs fd 3) = _
  rw [decodeWord_at (n := 17) (by simp)]
  rw [show decodeWordAt 17 _ = decodeCop1 _ from rfl, decodeCop1_at (n := 16) (by simp)]
  rw [show decodeCop1At 16 _ = decodeCop1S _ from rfl, decodeCop1S_at (n := 3) (by simp)]
  show Leaf.instr _ = _
  simp

theorem sqrtS (fd : Reg) (fs : Reg) : Statement (.sqrtS fd fs) := by
  intro _
  show decodeWord (rWord 0x11 16 0 fs fd 4) = _
  rw [decodeWord_at (n := 17) (by simp)]
  rw [show decodeWordAt 17 _ = decodeCop1 _ from rfl, decodeCop1_at (n := 16) (by simp)]
  rw [show decodeCop1At 16 _ = decodeCop1S _ from rfl, decodeCop1S_at (n := 4) (by simp)]
  show Leaf.guard _ _ = _
  simp [Leaf.guard]

theorem absS (fd : Reg) (fs : Reg) : Statement (.absS fd fs) := by
  intro _
  show decodeWord (rWord 0x11 16 0 fs fd 5) = _
  rw [decodeWord_at (n := 17) (by simp)]
  rw [show decodeWordAt 17 _ = decodeCop1 _ from rfl, decodeCop1_at (n := 16) (by simp)]
  rw [show decodeCop1At 16 _ = decodeCop1S _ from rfl, decodeCop1S_at (n := 5) (by simp)]
  show Leaf.guard _ _ = _
  simp [Leaf.guard]

theorem movS (fd : Reg) (fs : Reg) : Statement (.movS fd fs) := by
  intro _
  show decodeWord (rWord 0x11 16 0 fs fd 6) = _
  rw [decodeWord_at (n := 17) (by simp)]
  rw [show decodeWordAt 17 _ = decodeCop1 _ from rfl, decodeCop1_at (n := 16) (by simp)]
  rw [show decodeCop1At 16 _ = decodeCop1S _ from rfl, decodeCop1S_at (n := 6) (by simp)]
  show Leaf.guard _ _ = _
  simp [Leaf.guard]

theorem negS (fd : Reg) (fs : Reg) : Statement (.negS fd fs) := by
  intro _
  show decodeWord (rWord 0x11 16 0 fs fd 7) = _
  rw [decodeWord_at (n := 17) (by simp)]
  rw [show decodeWordAt 17 _ = decodeCop1 _ from rfl, decodeCop1_at (n := 16) (by simp)]
  rw [show decodeCop1At 16 _ = decodeCop1S _ from rfl, decodeCop1S_at (n := 7) (by simp)]
  show Leaf.guard _ _ = _
  simp [Leaf.guard]

theorem cvtDS (fd : Reg) (fs : Reg) : Statement (.cvtDS fd fs) := by
  intro _
  show decodeWord (rWord 0x11 16 0 fs fd 33) = _
  rw [decodeWord_at (n := 17) (by simp)]
  rw [show decodeWordAt 17 _ = decodeCop1 _ from rfl, decodeCop1_at (n := 16) (by simp)]
  rw [show decodeCop1At 16 _ = decodeCop1S _ from rfl, decodeCop1S_at (n := 33) (by simp)]
  show Leaf.guard _ _ = _
  simp [Leaf.guard]

theorem cvtWS (fd : Reg) (fs : Reg) : Statement (.cvtWS fd fs) := by
  intro _
  show decodeWord (rWord 0x11 16 0 fs fd 36) = _
  rw [decodeWord_at (n := 17) (by simp)]
  rw [show decodeWordAt 17 _ = decodeCop1 _ from rfl, decodeCop1_at (n := 16) (by simp)]
  rw [show decodeCop1At 16 _ = decodeCop1S _ from rfl, decodeCop1S_at (n := 36) (by simp)]
  show Leaf.guard _ _ = _
  simp [Leaf.guard]

theorem cvtLS (fd : Reg) (fs : Reg) : Statement (.cvtLS fd fs) := by
  intro _
  show decodeWord (rWord 0x11 16 0 fs fd 37) = _
  rw [decodeWord_at (n := 17) (by simp)]
  rw [show decodeWordAt 17 _ = decodeCop1 _ from rfl, decodeCop1_at (n := 16) (by simp)]
  rw [show decodeCop1At 16 _ = decodeCop1S _ from rfl, decodeCop1S_at (n := 37) (by simp)]
  show Leaf.guard _ _ = _
  simp [Leaf.guard]

theorem cFS (cc : BitVec 3) (fs : Reg) (ft : Reg) : Statement (.cFS cc fs ft) := by
  intro _
  show decodeWord (cmpWord 16 ft fs cc 48) = _
  rw [decodeWord_at (n := 17) (by simp)]
  rw [show decodeWordAt 17 _ = decodeCop1 _ from rfl, decodeCop1_at (n := 16) (by simp)]
  rw [show decodeCop1At 16 _ = decodeCop1S _ from rfl, decodeCop1S_at (n := 48) (by simp)]
  show Leaf.guard _ _ = _
  simp [Leaf.guard]

theorem cUnS (cc : BitVec 3) (fs : Reg) (ft : Reg) : Statement (.cUnS cc fs ft) := by
  intro _
  show decodeWord (cmpWord 16 ft fs cc 49) = _
  rw [decodeWord_at (n := 17) (by simp)]
  rw [show decodeWordAt 17 _ = decodeCop1 _ from rfl, decodeCop1_at (n := 16) (by simp)]
  rw [show decodeCop1At 16 _ = decodeCop1S _ from rfl, decodeCop1S_at (n := 49) (by simp)]
  show Leaf.guard _ _ = _
  simp [Leaf.guard]

theorem cEqS (cc : BitVec 3) (fs : Reg) (ft : Reg) : Statement (.cEqS cc fs ft) := by
  intro _
  show decodeWord (cmpWord 16 ft fs cc 50) = _
  rw [decodeWord_at (n := 17) (by simp)]
  rw [show decodeWordAt 17 _ = decodeCop1 _ from rfl, decodeCop1_at (n := 16) (by simp)]
  rw [show decodeCop1At 16 _ = decodeCop1S _ from rfl, decodeCop1S_at (n := 50) (by simp)]
  show Leaf.guard _ _ = _
  simp [Leaf.guard]

theorem cUeqS (cc : BitVec 3) (fs : Reg) (ft : Reg) : Statement (.cUeqS cc fs ft) := by
  intro _
  show decodeWord (cmpWord 16 ft fs cc 51) = _
  rw [decodeWord_at (n := 17) (by simp)]
  rw [show decodeWordAt 17 _ = decodeCop1 _ from rfl, decodeCop1_at (n := 16) (by simp)]
  rw [show decodeCop1At 16 _ = decodeCop1S _ from rfl, decodeCop1S_at (n := 51) (by simp)]
  show Leaf.guard _ _ = _
  simp [Leaf.guard]

theorem cOltS (cc : BitVec 3) (fs : Reg) (ft : Reg) : Statement (.cOltS cc fs ft) := by
  intro _
  show decodeWord (cmpWord 16 ft fs cc 52) = _
  rw [decodeWord_at (n := 17) (by simp)]
  rw [show decodeWordAt 17 _ = decodeCop1 _ from rfl, decodeCop1_at (n := 16) (by simp)]
  rw [show decodeCop1At 16 _ = decodeCop1S _ from rfl, decodeCop1S_at (n := 52) (by simp)]
  show Leaf.guard _ _ = _
  simp [Leaf.guard]

theorem cUltS (cc : BitVec 3) (fs : Reg) (ft : Reg) : Statement (.cUltS cc fs ft) := by
  intro _
  show decodeWord (cmpWord 16 ft fs cc 53) = _
  rw [decodeWord_at (n := 17) (by simp)]
  rw [show decodeWordAt 17 _ = decodeCop1 _ from rfl, decodeCop1_at (n := 16) (by simp)]
  rw [show decodeCop1At 16 _ = decodeCop1S _ from rfl, decodeCop1S_at (n := 53) (by simp)]
  show Leaf.guard _ _ = _
  simp [Leaf.guard]

theorem cOleS (cc : BitVec 3) (fs : Reg) (ft : Reg) : Statement (.cOleS cc fs ft) := by
  intro _
  show decodeWord (cmpWord 16 ft fs cc 54) = _
  rw [decodeWord_at (n := 17) (by simp)]
  rw [show decodeWordAt 17 _ = decodeCop1 _ from rfl, decodeCop1_at (n := 16) (by simp)]
  rw [show decodeCop1At 16 _ = decodeCop1S _ from rfl, decodeCop1S_at (n := 54) (by simp)]
  show Leaf.guard _ _ = _
  simp [Leaf.guard]

theorem cUleS (cc : BitVec 3) (fs : Reg) (ft : Reg) : Statement (.cUleS cc fs ft) := by
  intro _
  show decodeWord (cmpWord 16 ft fs cc 55) = _
  rw [decodeWord_at (n := 17) (by simp)]
  rw [show decodeWordAt 17 _ = decodeCop1 _ from rfl, decodeCop1_at (n := 16) (by simp)]
  rw [show decodeCop1At 16 _ = decodeCop1S _ from rfl, decodeCop1S_at (n := 55) (by simp)]
  show Leaf.guard _ _ = _
  simp [Leaf.guard]

theorem cSfS (cc : BitVec 3) (fs : Reg) (ft : Reg) : Statement (.cSfS cc fs ft) := by
  intro _
  show decodeWord (cmpWord 16 ft fs cc 56) = _
  rw [decodeWord_at (n := 17) (by simp)]
  rw [show decodeWordAt 17 _ = decodeCop1 _ from rfl, decodeCop1_at (n := 16) (by simp)]
  rw [show decodeCop1At 16 _ = decodeCop1S _ from rfl, decodeCop1S_at (n := 56) (by simp)]
  show Leaf.guard _ _ = _
  simp [Leaf.guard]

theorem cNgleS (cc : BitVec 3) (fs : Reg) (ft : Reg) : Statement (.cNgleS cc fs ft) := by
  intro _
  show decodeWord (cmpWord 16 ft fs cc 57) = _
  rw [decodeWord_at (n := 17) (by simp)]
  rw [show decodeWordAt 17 _ = decodeCop1 _ from rfl, decodeCop1_at (n := 16) (by simp)]
  rw [show decodeCop1At 16 _ = decodeCop1S _ from rfl, decodeCop1S_at (n := 57) (by simp)]
  show Leaf.guard _ _ = _
  simp [Leaf.guard]

theorem cSeqS (cc : BitVec 3) (fs : Reg) (ft : Reg) : Statement (.cSeqS cc fs ft) := by
  intro _
  show decodeWord (cmpWord 16 ft fs cc 58) = _
  rw [decodeWord_at (n := 17) (by simp)]
  rw [show decodeWordAt 17 _ = decodeCop1 _ from rfl, decodeCop1_at (n := 16) (by simp)]
  rw [show decodeCop1At 16 _ = decodeCop1S _ from rfl, decodeCop1S_at (n := 58) (by simp)]
  show Leaf.guard _ _ = _
  simp [Leaf.guard]

theorem cNglS (cc : BitVec 3) (fs : Reg) (ft : Reg) : Statement (.cNglS cc fs ft) := by
  intro _
  show decodeWord (cmpWord 16 ft fs cc 59) = _
  rw [decodeWord_at (n := 17) (by simp)]
  rw [show decodeWordAt 17 _ = decodeCop1 _ from rfl, decodeCop1_at (n := 16) (by simp)]
  rw [show decodeCop1At 16 _ = decodeCop1S _ from rfl, decodeCop1S_at (n := 59) (by simp)]
  show Leaf.guard _ _ = _
  simp [Leaf.guard]

theorem cLtS (cc : BitVec 3) (fs : Reg) (ft : Reg) : Statement (.cLtS cc fs ft) := by
  intro _
  show decodeWord (cmpWord 16 ft fs cc 60) = _
  rw [decodeWord_at (n := 17) (by simp)]
  rw [show decodeWordAt 17 _ = decodeCop1 _ from rfl, decodeCop1_at (n := 16) (by simp)]
  rw [show decodeCop1At 16 _ = decodeCop1S _ from rfl, decodeCop1S_at (n := 60) (by simp)]
  show Leaf.guard _ _ = _
  simp [Leaf.guard]

theorem cNgeS (cc : BitVec 3) (fs : Reg) (ft : Reg) : Statement (.cNgeS cc fs ft) := by
  intro _
  show decodeWord (cmpWord 16 ft fs cc 61) = _
  rw [decodeWord_at (n := 17) (by simp)]
  rw [show decodeWordAt 17 _ = decodeCop1 _ from rfl, decodeCop1_at (n := 16) (by simp)]
  rw [show decodeCop1At 16 _ = decodeCop1S _ from rfl, decodeCop1S_at (n := 61) (by simp)]
  show Leaf.guard _ _ = _
  simp [Leaf.guard]

theorem cLeS (cc : BitVec 3) (fs : Reg) (ft : Reg) : Statement (.cLeS cc fs ft) := by
  intro _
  show decodeWord (cmpWord 16 ft fs cc 62) = _
  rw [decodeWord_at (n := 17) (by simp)]
  rw [show decodeWordAt 17 _ = decodeCop1 _ from rfl, decodeCop1_at (n := 16) (by simp)]
  rw [show decodeCop1At 16 _ = decodeCop1S _ from rfl, decodeCop1S_at (n := 62) (by simp)]
  show Leaf.guard _ _ = _
  simp [Leaf.guard]

theorem cNgtS (cc : BitVec 3) (fs : Reg) (ft : Reg) : Statement (.cNgtS cc fs ft) := by
  intro _
  show decodeWord (cmpWord 16 ft fs cc 63) = _
  rw [decodeWord_at (n := 17) (by simp)]
  rw [show decodeWordAt 17 _ = decodeCop1 _ from rfl, decodeCop1_at (n := 16) (by simp)]
  rw [show decodeCop1At 16 _ = decodeCop1S _ from rfl, decodeCop1S_at (n := 63) (by simp)]
  show Leaf.guard _ _ = _
  simp [Leaf.guard]

theorem addD (fd : Reg) (fs : Reg) (ft : Reg) : Statement (.addD fd fs ft) := by
  intro _
  show decodeWord (rWord 0x11 17 ft fs fd 0) = _
  rw [decodeWord_at (n := 17) (by simp)]
  rw [show decodeWordAt 17 _ = decodeCop1 _ from rfl, decodeCop1_at (n := 17) (by simp)]
  rw [show decodeCop1At 17 _ = decodeCop1D _ from rfl, decodeCop1D_at (n := 0) (by simp)]
  show Leaf.instr _ = _
  simp

theorem subD (fd : Reg) (fs : Reg) (ft : Reg) : Statement (.subD fd fs ft) := by
  intro _
  show decodeWord (rWord 0x11 17 ft fs fd 1) = _
  rw [decodeWord_at (n := 17) (by simp)]
  rw [show decodeWordAt 17 _ = decodeCop1 _ from rfl, decodeCop1_at (n := 17) (by simp)]
  rw [show decodeCop1At 17 _ = decodeCop1D _ from rfl, decodeCop1D_at (n := 1) (by simp)]
  show Leaf.instr _ = _
  simp

theorem mulD (fd : Reg) (fs : Reg) (ft : Reg) : Statement (.mulD fd fs ft) := by
  intro _
  show decodeWord (rWord 0x11 17 ft fs fd 2) = _
  rw [decodeWord_at (n := 17) (by simp)]
  rw [show decodeWordAt 17 _ = decodeCop1 _ from rfl, decodeCop1_at (n := 17) (by simp)]
  rw [show decodeCop1At 17 _ = decodeCop1D _ from rfl, decodeCop1D_at (n := 2) (by simp)]
  show Leaf.instr _ = _
  simp

theorem divD (fd : Reg) (fs : Reg) (ft : Reg) : Statement (.divD fd fs ft) := by
  intro _
  show decodeWord (rWord 0x11 17 ft fs fd 3) = _
  rw [decodeWord_at (n := 17) (by simp)]
  rw [show decodeWordAt 17 _ = decodeCop1 _ from rfl, decodeCop1_at (n := 17) (by simp)]
  rw [show decodeCop1At 17 _ = decodeCop1D _ from rfl, decodeCop1D_at (n := 3) (by simp)]
  show Leaf.instr _ = _
  simp

theorem sqrtD (fd : Reg) (fs : Reg) : Statement (.sqrtD fd fs) := by
  intro _
  show decodeWord (rWord 0x11 17 0 fs fd 4) = _
  rw [decodeWord_at (n := 17) (by simp)]
  rw [show decodeWordAt 17 _ = decodeCop1 _ from rfl, decodeCop1_at (n := 17) (by simp)]
  rw [show decodeCop1At 17 _ = decodeCop1D _ from rfl, decodeCop1D_at (n := 4) (by simp)]
  show Leaf.guard _ _ = _
  simp [Leaf.guard]

theorem absD (fd : Reg) (fs : Reg) : Statement (.absD fd fs) := by
  intro _
  show decodeWord (rWord 0x11 17 0 fs fd 5) = _
  rw [decodeWord_at (n := 17) (by simp)]
  rw [show decodeWordAt 17 _ = decodeCop1 _ from rfl, decodeCop1_at (n := 17) (by simp)]
  rw [show decodeCop1At 17 _ = decodeCop1D _ from rfl, decodeCop1D_at (n := 5) (by simp)]
  show Leaf.guard _ _ = _
  simp [Leaf.guard]

theorem movD (fd : Reg) (fs : Reg) : Statement (.movD fd fs) := by
  intro _
  show decodeWord (rWord 0x11 17 0 fs fd 6) = _
  rw [decodeWord_at (n := 17) (by simp)]
  rw [show decodeWordAt 17 _ = decodeCop1 _ from rfl, decodeCop1_at (n := 17) (by simp)]
  rw [show decodeCop1At 17 _ = decodeCop1D _ from rfl, decodeCop1D_at (n := 6) (by simp)]
  show Leaf.guard _ _ = _
  simp [Leaf.guard]

theorem negD (fd : Reg) (fs : Reg) : Statement (.negD fd fs) := by
  intro _
  show decodeWord (rWord 0x11 17 0 fs fd 7) = _
  rw [decodeWord_at (n := 17) (by simp)]
  rw [show decodeWordAt 17 _ = decodeCop1 _ from rfl, decodeCop1_at (n := 17) (by simp)]
  rw [show decodeCop1At 17 _ = decodeCop1D _ from rfl, decodeCop1D_at (n := 7) (by simp)]
  show Leaf.guard _ _ = _
  simp [Leaf.guard]

theorem cvtSD (fd : Reg) (fs : Reg) : Statement (.cvtSD fd fs) := by
  intro _
  show decodeWord (rWord 0x11 17 0 fs fd 32) = _
  rw [decodeWord_at (n := 17) (by simp)]
  rw [show decodeWordAt 17 _ = decodeCop1 _ from rfl, decodeCop1_at (n := 17) (by simp)]
  rw [show decodeCop1At 17 _ = decodeCop1D _ from rfl, decodeCop1D_at (n := 32) (by simp)]
  show Leaf.guard _ _ = _
  simp [Leaf.guard]

theorem cvtWD (fd : Reg) (fs : Reg) : Statement (.cvtWD fd fs) := by
  intro _
  show decodeWord (rWord 0x11 17 0 fs fd 36) = _
  rw [decodeWord_at (n := 17) (by simp)]
  rw [show decodeWordAt 17 _ = decodeCop1 _ from rfl, decodeCop1_at (n := 17) (by simp)]
  rw [show decodeCop1At 17 _ = decodeCop1D _ from rfl, decodeCop1D_at (n := 36) (by simp)]
  show Leaf.guard _ _ = _
  simp [Leaf.guard]

theorem cvtLD (fd : Reg) (fs : Reg) : Statement (.cvtLD fd fs) := by
  intro _
  show decodeWord (rWord 0x11 17 0 fs fd 37) = _
  rw [decodeWord_at (n := 17) (by simp)]
  rw [show decodeWordAt 17 _ = decodeCop1 _ from rfl, decodeCop1_at (n := 17) (by simp)]
  rw [show decodeCop1At 17 _ = decodeCop1D _ from rfl, decodeCop1D_at (n := 37) (by simp)]
  show Leaf.guard _ _ = _
  simp [Leaf.guard]

theorem cFD (cc : BitVec 3) (fs : Reg) (ft : Reg) : Statement (.cFD cc fs ft) := by
  intro _
  show decodeWord (cmpWord 17 ft fs cc 48) = _
  rw [decodeWord_at (n := 17) (by simp)]
  rw [show decodeWordAt 17 _ = decodeCop1 _ from rfl, decodeCop1_at (n := 17) (by simp)]
  rw [show decodeCop1At 17 _ = decodeCop1D _ from rfl, decodeCop1D_at (n := 48) (by simp)]
  show Leaf.guard _ _ = _
  simp [Leaf.guard]

theorem cUnD (cc : BitVec 3) (fs : Reg) (ft : Reg) : Statement (.cUnD cc fs ft) := by
  intro _
  show decodeWord (cmpWord 17 ft fs cc 49) = _
  rw [decodeWord_at (n := 17) (by simp)]
  rw [show decodeWordAt 17 _ = decodeCop1 _ from rfl, decodeCop1_at (n := 17) (by simp)]
  rw [show decodeCop1At 17 _ = decodeCop1D _ from rfl, decodeCop1D_at (n := 49) (by simp)]
  show Leaf.guard _ _ = _
  simp [Leaf.guard]

theorem cEqD (cc : BitVec 3) (fs : Reg) (ft : Reg) : Statement (.cEqD cc fs ft) := by
  intro _
  show decodeWord (cmpWord 17 ft fs cc 50) = _
  rw [decodeWord_at (n := 17) (by simp)]
  rw [show decodeWordAt 17 _ = decodeCop1 _ from rfl, decodeCop1_at (n := 17) (by simp)]
  rw [show decodeCop1At 17 _ = decodeCop1D _ from rfl, decodeCop1D_at (n := 50) (by simp)]
  show Leaf.guard _ _ = _
  simp [Leaf.guard]

theorem cUeqD (cc : BitVec 3) (fs : Reg) (ft : Reg) : Statement (.cUeqD cc fs ft) := by
  intro _
  show decodeWord (cmpWord 17 ft fs cc 51) = _
  rw [decodeWord_at (n := 17) (by simp)]
  rw [show decodeWordAt 17 _ = decodeCop1 _ from rfl, decodeCop1_at (n := 17) (by simp)]
  rw [show decodeCop1At 17 _ = decodeCop1D _ from rfl, decodeCop1D_at (n := 51) (by simp)]
  show Leaf.guard _ _ = _
  simp [Leaf.guard]

theorem cOltD (cc : BitVec 3) (fs : Reg) (ft : Reg) : Statement (.cOltD cc fs ft) := by
  intro _
  show decodeWord (cmpWord 17 ft fs cc 52) = _
  rw [decodeWord_at (n := 17) (by simp)]
  rw [show decodeWordAt 17 _ = decodeCop1 _ from rfl, decodeCop1_at (n := 17) (by simp)]
  rw [show decodeCop1At 17 _ = decodeCop1D _ from rfl, decodeCop1D_at (n := 52) (by simp)]
  show Leaf.guard _ _ = _
  simp [Leaf.guard]

theorem cUltD (cc : BitVec 3) (fs : Reg) (ft : Reg) : Statement (.cUltD cc fs ft) := by
  intro _
  show decodeWord (cmpWord 17 ft fs cc 53) = _
  rw [decodeWord_at (n := 17) (by simp)]
  rw [show decodeWordAt 17 _ = decodeCop1 _ from rfl, decodeCop1_at (n := 17) (by simp)]
  rw [show decodeCop1At 17 _ = decodeCop1D _ from rfl, decodeCop1D_at (n := 53) (by simp)]
  show Leaf.guard _ _ = _
  simp [Leaf.guard]

theorem cOleD (cc : BitVec 3) (fs : Reg) (ft : Reg) : Statement (.cOleD cc fs ft) := by
  intro _
  show decodeWord (cmpWord 17 ft fs cc 54) = _
  rw [decodeWord_at (n := 17) (by simp)]
  rw [show decodeWordAt 17 _ = decodeCop1 _ from rfl, decodeCop1_at (n := 17) (by simp)]
  rw [show decodeCop1At 17 _ = decodeCop1D _ from rfl, decodeCop1D_at (n := 54) (by simp)]
  show Leaf.guard _ _ = _
  simp [Leaf.guard]

theorem cUleD (cc : BitVec 3) (fs : Reg) (ft : Reg) : Statement (.cUleD cc fs ft) := by
  intro _
  show decodeWord (cmpWord 17 ft fs cc 55) = _
  rw [decodeWord_at (n := 17) (by simp)]
  rw [show decodeWordAt 17 _ = decodeCop1 _ from rfl, decodeCop1_at (n := 17) (by simp)]
  rw [show decodeCop1At 17 _ = decodeCop1D _ from rfl, decodeCop1D_at (n := 55) (by simp)]
  show Leaf.guard _ _ = _
  simp [Leaf.guard]

theorem cSfD (cc : BitVec 3) (fs : Reg) (ft : Reg) : Statement (.cSfD cc fs ft) := by
  intro _
  show decodeWord (cmpWord 17 ft fs cc 56) = _
  rw [decodeWord_at (n := 17) (by simp)]
  rw [show decodeWordAt 17 _ = decodeCop1 _ from rfl, decodeCop1_at (n := 17) (by simp)]
  rw [show decodeCop1At 17 _ = decodeCop1D _ from rfl, decodeCop1D_at (n := 56) (by simp)]
  show Leaf.guard _ _ = _
  simp [Leaf.guard]

theorem cNgleD (cc : BitVec 3) (fs : Reg) (ft : Reg) : Statement (.cNgleD cc fs ft) := by
  intro _
  show decodeWord (cmpWord 17 ft fs cc 57) = _
  rw [decodeWord_at (n := 17) (by simp)]
  rw [show decodeWordAt 17 _ = decodeCop1 _ from rfl, decodeCop1_at (n := 17) (by simp)]
  rw [show decodeCop1At 17 _ = decodeCop1D _ from rfl, decodeCop1D_at (n := 57) (by simp)]
  show Leaf.guard _ _ = _
  simp [Leaf.guard]

theorem cSeqD (cc : BitVec 3) (fs : Reg) (ft : Reg) : Statement (.cSeqD cc fs ft) := by
  intro _
  show decodeWord (cmpWord 17 ft fs cc 58) = _
  rw [decodeWord_at (n := 17) (by simp)]
  rw [show decodeWordAt 17 _ = decodeCop1 _ from rfl, decodeCop1_at (n := 17) (by simp)]
  rw [show decodeCop1At 17 _ = decodeCop1D _ from rfl, decodeCop1D_at (n := 58) (by simp)]
  show Leaf.guard _ _ = _
  simp [Leaf.guard]

theorem cNglD (cc : BitVec 3) (fs : Reg) (ft : Reg) : Statement (.cNglD cc fs ft) := by
  intro _
  show decodeWord (cmpWord 17 ft fs cc 59) = _
  rw [decodeWord_at (n := 17) (by simp)]
  rw [show decodeWordAt 17 _ = decodeCop1 _ from rfl, decodeCop1_at (n := 17) (by simp)]
  rw [show decodeCop1At 17 _ = decodeCop1D _ from rfl, decodeCop1D_at (n := 59) (by simp)]
  show Leaf.guard _ _ = _
  simp [Leaf.guard]

theorem cLtD (cc : BitVec 3) (fs : Reg) (ft : Reg) : Statement (.cLtD cc fs ft) := by
  intro _
  show decodeWord (cmpWord 17 ft fs cc 60) = _
  rw [decodeWord_at (n := 17) (by simp)]
  rw [show decodeWordAt 17 _ = decodeCop1 _ from rfl, decodeCop1_at (n := 17) (by simp)]
  rw [show decodeCop1At 17 _ = decodeCop1D _ from rfl, decodeCop1D_at (n := 60) (by simp)]
  show Leaf.guard _ _ = _
  simp [Leaf.guard]

theorem cNgeD (cc : BitVec 3) (fs : Reg) (ft : Reg) : Statement (.cNgeD cc fs ft) := by
  intro _
  show decodeWord (cmpWord 17 ft fs cc 61) = _
  rw [decodeWord_at (n := 17) (by simp)]
  rw [show decodeWordAt 17 _ = decodeCop1 _ from rfl, decodeCop1_at (n := 17) (by simp)]
  rw [show decodeCop1At 17 _ = decodeCop1D _ from rfl, decodeCop1D_at (n := 61) (by simp)]
  show Leaf.guard _ _ = _
  simp [Leaf.guard]

theorem cLeD (cc : BitVec 3) (fs : Reg) (ft : Reg) : Statement (.cLeD cc fs ft) := by
  intro _
  show decodeWord (cmpWord 17 ft fs cc 62) = _
  rw [decodeWord_at (n := 17) (by simp)]
  rw [show decodeWordAt 17 _ = decodeCop1 _ from rfl, decodeCop1_at (n := 17) (by simp)]
  rw [show decodeCop1At 17 _ = decodeCop1D _ from rfl, decodeCop1D_at (n := 62) (by simp)]
  show Leaf.guard _ _ = _
  simp [Leaf.guard]

theorem cNgtD (cc : BitVec 3) (fs : Reg) (ft : Reg) : Statement (.cNgtD cc fs ft) := by
  intro _
  show decodeWord (cmpWord 17 ft fs cc 63) = _
  rw [decodeWord_at (n := 17) (by simp)]
  rw [show decodeWordAt 17 _ = decodeCop1 _ from rfl, decodeCop1_at (n := 17) (by simp)]
  rw [show decodeCop1At 17 _ = decodeCop1D _ from rfl, decodeCop1D_at (n := 63) (by simp)]
  show Leaf.guard _ _ = _
  simp [Leaf.guard]

theorem cvtSW (fd : Reg) (fs : Reg) : Statement (.cvtSW fd fs) := by
  intro _
  show decodeWord (rWord 0x11 20 0 fs fd 32) = _
  rw [decodeWord_at (n := 17) (by simp)]
  rw [show decodeWordAt 17 _ = decodeCop1 _ from rfl, decodeCop1_at (n := 20) (by simp)]
  rw [show decodeCop1At 20 _ = decodeCop1W _ from rfl]
  simp [decodeCop1W, Leaf.guard]

theorem cvtDW (fd : Reg) (fs : Reg) : Statement (.cvtDW fd fs) := by
  intro _
  show decodeWord (rWord 0x11 20 0 fs fd 33) = _
  rw [decodeWord_at (n := 17) (by simp)]
  rw [show decodeWordAt 17 _ = decodeCop1 _ from rfl, decodeCop1_at (n := 20) (by simp)]
  rw [show decodeCop1At 20 _ = decodeCop1W _ from rfl]
  simp [decodeCop1W, Leaf.guard]

theorem cvtSL (fd : Reg) (fs : Reg) : Statement (.cvtSL fd fs) := by
  intro _
  show decodeWord (rWord 0x11 21 0 fs fd 32) = _
  rw [decodeWord_at (n := 17) (by simp)]
  rw [show decodeWordAt 17 _ = decodeCop1 _ from rfl, decodeCop1_at (n := 21) (by simp)]
  rw [show decodeCop1At 21 _ = decodeCop1L _ from rfl]
  simp [decodeCop1L, Leaf.guard]

theorem cvtDL (fd : Reg) (fs : Reg) : Statement (.cvtDL fd fs) := by
  intro _
  show decodeWord (rWord 0x11 21 0 fs fd 33) = _
  rw [decodeWord_at (n := 17) (by simp)]
  rw [show decodeWordAt 17 _ = decodeCop1 _ from rfl, decodeCop1_at (n := 21) (by simp)]
  rw [show decodeCop1At 21 _ = decodeCop1L _ from rfl]
  simp [decodeCop1L, Leaf.guard]

theorem lb (rt : Reg) (base : Reg) (offset : BitVec 16) : Statement (.lb rt base offset) := by
  intro _
  show decodeWord (iWord 0x20 base rt offset) = _
  rw [decodeWord_at (n := 32) (by simp)]
  show Leaf.instr _ = _
  simp

theorem lh (rt : Reg) (base : Reg) (offset : BitVec 16) : Statement (.lh rt base offset) := by
  intro _
  show decodeWord (iWord 0x21 base rt offset) = _
  rw [decodeWord_at (n := 33) (by simp)]
  show Leaf.instr _ = _
  simp

theorem lwl (rt : Reg) (base : Reg) (offset : BitVec 16) : Statement (.lwl rt base offset) := by
  intro _
  show decodeWord (iWord 0x22 base rt offset) = _
  rw [decodeWord_at (n := 34) (by simp)]
  show Leaf.instr _ = _
  simp

theorem lw (rt : Reg) (base : Reg) (offset : BitVec 16) : Statement (.lw rt base offset) := by
  intro _
  show decodeWord (iWord 0x23 base rt offset) = _
  rw [decodeWord_at (n := 35) (by simp)]
  show Leaf.instr _ = _
  simp

theorem lbu (rt : Reg) (base : Reg) (offset : BitVec 16) : Statement (.lbu rt base offset) := by
  intro _
  show decodeWord (iWord 0x24 base rt offset) = _
  rw [decodeWord_at (n := 36) (by simp)]
  show Leaf.instr _ = _
  simp

theorem lhu (rt : Reg) (base : Reg) (offset : BitVec 16) : Statement (.lhu rt base offset) := by
  intro _
  show decodeWord (iWord 0x25 base rt offset) = _
  rw [decodeWord_at (n := 37) (by simp)]
  show Leaf.instr _ = _
  simp

theorem lwr (rt : Reg) (base : Reg) (offset : BitVec 16) : Statement (.lwr rt base offset) := by
  intro _
  show decodeWord (iWord 0x26 base rt offset) = _
  rw [decodeWord_at (n := 38) (by simp)]
  show Leaf.instr _ = _
  simp

theorem sb (rt : Reg) (base : Reg) (offset : BitVec 16) : Statement (.sb rt base offset) := by
  intro _
  show decodeWord (iWord 0x28 base rt offset) = _
  rw [decodeWord_at (n := 40) (by simp)]
  show Leaf.instr _ = _
  simp

theorem sh (rt : Reg) (base : Reg) (offset : BitVec 16) : Statement (.sh rt base offset) := by
  intro _
  show decodeWord (iWord 0x29 base rt offset) = _
  rw [decodeWord_at (n := 41) (by simp)]
  show Leaf.instr _ = _
  simp

theorem swl (rt : Reg) (base : Reg) (offset : BitVec 16) : Statement (.swl rt base offset) := by
  intro _
  show decodeWord (iWord 0x2A base rt offset) = _
  rw [decodeWord_at (n := 42) (by simp)]
  show Leaf.instr _ = _
  simp

theorem sw (rt : Reg) (base : Reg) (offset : BitVec 16) : Statement (.sw rt base offset) := by
  intro _
  show decodeWord (iWord 0x2B base rt offset) = _
  rw [decodeWord_at (n := 43) (by simp)]
  show Leaf.instr _ = _
  simp

theorem swr (rt : Reg) (base : Reg) (offset : BitVec 16) : Statement (.swr rt base offset) := by
  intro _
  show decodeWord (iWord 0x2E base rt offset) = _
  rw [decodeWord_at (n := 46) (by simp)]
  show Leaf.instr _ = _
  simp

theorem ll (rt : Reg) (base : Reg) (offset : BitVec 16) : Statement (.ll rt base offset) := by
  intro _
  show decodeWord (iWord 0x30 base rt offset) = _
  rw [decodeWord_at (n := 48) (by simp)]
  show Leaf.instr _ = _
  simp

theorem sc (rt : Reg) (base : Reg) (offset : BitVec 16) : Statement (.sc rt base offset) := by
  intro _
  show decodeWord (iWord 0x38 base rt offset) = _
  rw [decodeWord_at (n := 56) (by simp)]
  show Leaf.instr _ = _
  simp

theorem lwc1 (ft : Reg) (base : Reg) (offset : BitVec 16) : Statement (.lwc1 ft base offset) := by
  intro _
  show decodeWord (iWord 0x31 base ft offset) = _
  rw [decodeWord_at (n := 49) (by simp)]
  show Leaf.instr _ = _
  simp

theorem ldc1 (ft : Reg) (base : Reg) (offset : BitVec 16) : Statement (.ldc1 ft base offset) := by
  intro _
  show decodeWord (iWord 0x35 base ft offset) = _
  rw [decodeWord_at (n := 53) (by simp)]
  show Leaf.instr _ = _
  simp

theorem swc1 (ft : Reg) (base : Reg) (offset : BitVec 16) : Statement (.swc1 ft base offset) := by
  intro _
  show decodeWord (iWord 0x39 base ft offset) = _
  rw [decodeWord_at (n := 57) (by simp)]
  show Leaf.instr _ = _
  simp

theorem sdc1 (ft : Reg) (base : Reg) (offset : BitVec 16) : Statement (.sdc1 ft base offset) := by
  intro _
  show decodeWord (iWord 0x3D base ft offset) = _
  rw [decodeWord_at (n := 61) (by simp)]
  show Leaf.instr _ = _
  simp

theorem ssnop : Statement (.ssnop) := by
  intro _; decide

theorem ehb : Statement (.ehb) := by
  intro _; decide

theorem movf : Statement (.movf) := by
  intro _; decide

theorem movt : Statement (.movt) := by
  intro _; decide

theorem rotr : Statement (.rotr) := by
  intro _; decide

theorem rotrv : Statement (.rotrv) := by
  intro _; decide

theorem jrHb : Statement (.jrHb) := by
  intro _; decide

theorem jalrHb : Statement (.jalrHb) := by
  intro _; decide

theorem movz : Statement (.movz) := by
  intro _; decide

theorem movn : Statement (.movn) := by
  intro _; decide

theorem bltzl : Statement (.bltzl) := by
  intro _; decide

theorem bgezl : Statement (.bgezl) := by
  intro _; decide

theorem bltzall : Statement (.bltzall) := by
  intro _; decide

theorem bgezall : Statement (.bgezall) := by
  intro _; decide

theorem synci : Statement (.synci) := by
  intro _; decide

theorem failSentinel : Statement (.failSentinel) := by
  intro _; decide

theorem passSentinel : Statement (.passSentinel) := by
  intro _; decide

theorem cop0 : Statement (.cop0) := by
  intro _; decide

theorem mfc0 : Statement (.mfc0) := by
  intro _; decide

theorem mtc0 : Statement (.mtc0) := by
  intro _; decide

theorem rdpgpr : Statement (.rdpgpr) := by
  intro _; decide

theorem wrpgpr : Statement (.wrpgpr) := by
  intro _; decide

theorem di : Statement (.di) := by
  intro _; decide

theorem ei : Statement (.ei) := by
  intro _; decide

theorem tlbr : Statement (.tlbr) := by
  intro _; decide

theorem tlbwi : Statement (.tlbwi) := by
  intro _; decide

theorem tlbwr : Statement (.tlbwr) := by
  intro _; decide

theorem tlbp : Statement (.tlbp) := by
  intro _; decide

theorem eret : Statement (.eret) := by
  intro _; decide

theorem deret : Statement (.deret) := by
  intro _; decide

theorem wait : Statement (.wait) := by
  intro _; decide

theorem dmfc1 : Statement (.dmfc1) := by
  intro _; decide

theorem mfhc1 : Statement (.mfhc1) := by
  intro _; decide

theorem dmtc1 : Statement (.dmtc1) := by
  intro _; decide

theorem mthc1 : Statement (.mthc1) := by
  intro _; decide

theorem bc1any2 : Statement (.bc1any2) := by
  intro _; decide

theorem bc1any4 : Statement (.bc1any4) := by
  intro _; decide

theorem roundLS : Statement (.roundLS) := by
  intro _; decide

theorem truncLS : Statement (.truncLS) := by
  intro _; decide

theorem ceilLS : Statement (.ceilLS) := by
  intro _; decide

theorem floorLS : Statement (.floorLS) := by
  intro _; decide

theorem roundWS : Statement (.roundWS) := by
  intro _; decide

theorem truncWS : Statement (.truncWS) := by
  intro _; decide

theorem ceilWS : Statement (.ceilWS) := by
  intro _; decide

theorem floorWS : Statement (.floorWS) := by
  intro _; decide

theorem movzS : Statement (.movzS) := by
  intro _; decide

theorem movnS : Statement (.movnS) := by
  intro _; decide

theorem recipS : Statement (.recipS) := by
  intro _; decide

theorem rsqrtS : Statement (.rsqrtS) := by
  intro _; decide

theorem movfS : Statement (.movfS) := by
  intro _; decide

theorem movtS : Statement (.movtS) := by
  intro _; decide

theorem cvtPsS : Statement (.cvtPsS) := by
  intro _; decide

theorem roundLD : Statement (.roundLD) := by
  intro _; decide

theorem truncLD : Statement (.truncLD) := by
  intro _; decide

theorem ceilLD : Statement (.ceilLD) := by
  intro _; decide

theorem floorLD : Statement (.floorLD) := by
  intro _; decide

theorem roundWD : Statement (.roundWD) := by
  intro _; decide

theorem truncWD : Statement (.truncWD) := by
  intro _; decide

theorem ceilWD : Statement (.ceilWD) := by
  intro _; decide

theorem floorWD : Statement (.floorWD) := by
  intro _; decide

theorem movzD : Statement (.movzD) := by
  intro _; decide

theorem movnD : Statement (.movnD) := by
  intro _; decide

theorem recipD : Statement (.recipD) := by
  intro _; decide

theorem rsqrtD : Statement (.rsqrtD) := by
  intro _; decide

theorem movfD : Statement (.movfD) := by
  intro _; decide

theorem movtD : Statement (.movtD) := by
  intro _; decide

theorem fmtPs : Statement (.fmtPs) := by
  intro _; decide

theorem cop2 : Statement (.cop2) := by
  intro _; decide

theorem lwxc1 : Statement (.lwxc1) := by
  intro _; decide

theorem ldxc1 : Statement (.ldxc1) := by
  intro _; decide

theorem luxc1 : Statement (.luxc1) := by
  intro _; decide

theorem swxc1 : Statement (.swxc1) := by
  intro _; decide

theorem sdxc1 : Statement (.sdxc1) := by
  intro _; decide

theorem suxc1 : Statement (.suxc1) := by
  intro _; decide

theorem prefx : Statement (.prefx) := by
  intro _; decide

theorem alnvPs : Statement (.alnvPs) := by
  intro _; decide

theorem maddS : Statement (.maddS) := by
  intro _; decide

theorem maddD : Statement (.maddD) := by
  intro _; decide

theorem maddPs : Statement (.maddPs) := by
  intro _; decide

theorem msubS : Statement (.msubS) := by
  intro _; decide

theorem msubD : Statement (.msubD) := by
  intro _; decide

theorem msubPs : Statement (.msubPs) := by
  intro _; decide

theorem nmaddS : Statement (.nmaddS) := by
  intro _; decide

theorem nmaddD : Statement (.nmaddD) := by
  intro _; decide

theorem nmaddPs : Statement (.nmaddPs) := by
  intro _; decide

theorem nmsubS : Statement (.nmsubS) := by
  intro _; decide

theorem nmsubD : Statement (.nmsubD) := by
  intro _; decide

theorem nmsubPs : Statement (.nmsubPs) := by
  intro _; decide

theorem beql : Statement (.beql) := by
  intro _; decide

theorem bnel : Statement (.bnel) := by
  intro _; decide

theorem blezl : Statement (.blezl) := by
  intro _; decide

theorem bgtzl : Statement (.bgtzl) := by
  intro _; decide

theorem madd : Statement (.madd) := by
  intro _; decide

theorem maddu : Statement (.maddu) := by
  intro _; decide

theorem mul : Statement (.mul) := by
  intro _; decide

theorem msub : Statement (.msub) := by
  intro _; decide

theorem msubu : Statement (.msubu) := by
  intro _; decide

theorem clz : Statement (.clz) := by
  intro _; decide

theorem clo : Statement (.clo) := by
  intro _; decide

theorem sdbbp : Statement (.sdbbp) := by
  intro _; decide

theorem jalx : Statement (.jalx) := by
  intro _; decide

theorem ext : Statement (.ext) := by
  intro _; decide

theorem ins : Statement (.ins) := by
  intro _; decide

theorem wsbh : Statement (.wsbh) := by
  intro _; decide

theorem seb : Statement (.seb) := by
  intro _; decide

theorem seh : Statement (.seh) := by
  intro _; decide

theorem rdhwr : Statement (.rdhwr) := by
  intro _; decide

theorem cache : Statement (.cache) := by
  intro _; decide

theorem pref : Statement (.pref) := by
  intro _; decide

theorem lwc2 : Statement (.lwc2) := by
  intro _; decide

theorem ldc2 : Statement (.ldc2) := by
  intro _; decide

theorem swc2 : Statement (.swc2) := by
  intro _; decide

theorem sdc2 : Statement (.sdc2) := by
  intro _; decide

end Sys2Proof.Laws.RoundTrip
end

