-- ==== Sys2Proof/Laws/Step.lean ====
section
/-! SUPPORT. Everything a step can do, case by case: cited instead of unfolding `step`. -/

namespace Sys2Proof.Machine

/-- A step that answers a next state was taken by a run that had not ended, of the same thread or of the one asked for. -/
theorem step_next_cases {s t : State} (h : step s = .next t) :
    (s.faultRecord = none ∧ s.runEnd = none) ∧
      ((s.schedule = [] ∧ stepThread s = .next t) ∨
        ∃ e rest u, s.schedule = e :: rest ∧ s.selectThread e.thread = some u ∧ (u.setSchedule rest).serve e = .next t) := by
  have hr : s.faultRecord = none ∧ s.runEnd = none := by
    by_contra hc
    unfold step at h
    cases e : s.answerIfEnded with
    | none => exact hc (answerIfEnded_eq_none.1 e)
    | some a =>
      simp only [e] at h
      subst h
      unfold State.answerIfEnded at e
      split at e <;> simp at e
  refine ⟨hr, ?_⟩
  rw [step_running hr.1 hr.2, State.proceed] at h
  split at h
  · exact .inl ⟨by assumption, h⟩
  · split at h
    · exact .inr ⟨_, _, _, by assumption, by assumption, h⟩
    · simp at h

/-- A thread's step finishes a store begun, or records a fetch fault, or executes what it decoded. -/
theorem stepWith_next_cases {execute : StaticInst → State → Res} {s t : State} (h : stepWith execute s = .next t) :
    (∃ p, s.pendingStore = some p ∧ finishStep (finishStore p s) = .next t) ∨
      (s.pendingStore = none ∧ s.haltPc ≠ some s.live.pc ∧
        ((∃ f, s.decode = .error f ∧ t = s.recordFault f) ∨
          ∃ inst u, s.decode = .ok (inst, u) ∧ finishStep (execute inst u.clearZero) = .next t)) := by
  unfold stepWith at h
  split at h
  · exact .inl ⟨_, by assumption, h⟩
  · split at h
    · simp at h
    · refine .inr ⟨by assumption, by assumption, ?_⟩
      split at h
      · exact .inl ⟨_, by assumption, (Host.Outcome.next.inj h).symm⟩
      · exact .inr ⟨_, _, by assumption, h⟩

/-- What `finishStep` makes of a next state. -/
theorem finishStep_next_cases {r : Res} {t : State} (h : finishStep r = .next t) :
    ∃ u, r = .next u ∧ ((u.faultRecord = none ∧ u.runEnd = none ∧ u.pendingStore = none ∧ t = u.advance) ∨
      (¬(u.faultRecord = none ∧ u.runEnd = none ∧ u.pendingStore = none) ∧ t = u)) := by
  cases r with
  | fault f => simp [finishStep] at h
  | refused r => simp [finishStep] at h
  | next u =>
    refine ⟨u, rfl, ?_⟩
    simp only [finishStep, Host.Outcome.next.injEq] at h
    split at h
    · rename_i hc
      refine .inr ⟨?_, h.symm⟩
      rintro ⟨h1, h2, h3⟩
      simp [stopped_eq_false.2 ⟨h1, h2⟩, h3] at hc
    · rename_i hc
      simp only [Bool.or_eq_true, not_or, Bool.not_eq_true, Option.isSome_eq_false_iff, Option.isNone_iff_eq_none] at hc
      exact .inl ⟨(stopped_eq_false.1 hc.1).1, (stopped_eq_false.1 hc.1).2, hc.2, h.symm⟩

/-- A decoded leaf answers a next state and leaves what is fixed alone. -/
theorem execLeaf_fixes (inst : StaticInst) (s : State) : Fixes s (execLeaf inst s) := by
  unfold execLeaf
  split
  · exact exec_fixes _ _
  · exact fixes_raise _ _

/-- A finished store is a fault, or the word written and nothing pending. -/
theorem finishStore_cases (p : PendingStore) (s : State) :
    (∃ f, s.accessFault p.addr 4 = some f ∧ finishStore p s = raise f s) ∨
      (s.accessFault p.addr 4 = none ∧
        finishStore p s = .next ((s.setMem (s.mem.setWord p.addr p.value)).setPendingStore none)) := by
  unfold finishStore
  split
  · exact .inl ⟨_, by assumption, rfl⟩
  · exact .inr ⟨by assumption, rfl⟩

/-- A step up to its store is a whole one, but for `swl` and `swr`. -/
theorem execLeafToStore_eq {inst : StaticInst} (s : State) (hl : ∀ rt base offset, inst.leaf ≠ .instr (.swl rt base offset))
    (hr : ∀ rt base offset, inst.leaf ≠ .instr (.swr rt base offset)) : execLeafToStore inst s = execLeaf inst s := by
  unfold execLeafToStore
  split
  · exact absurd (by assumption) (hl _ _ _)
  · exact absurd (by assumption) (hr _ _ _)
  · rfl

end Sys2Proof.Machine
end

