-- ==== Sys2Proof/Machine/Assembler.lean ====
section
/-! DEFINITION. The assembler convention (R134, R135): branch and jump operands from addresses, and the expansion of the
pseudo-instructions into instructions of the block. -/

namespace Sys2Proof.Machine

/-- `OFFSET = (target - (pc + 4)) >> 2` (R134). DESIGN CHOICE (log 23): R134 says nothing of a label that is out of the
16-bit range or not word-aligned; its bits above and below the field are dropped. -/
def offsetTo (pc target : Word) : BitVec 16 := (target - (pc + 4)).extractLsb' 2 16

/-- `JMPTARG = target[27:2]` (R134). DESIGN CHOICE (log 23): R134 says nothing of a target outside the 256 MiB region of
`pc + 4` or not word-aligned; its bits above and below the field are dropped. -/
def jumpFieldTo (target : Word) : BitVec 26 := target.extractLsb' 2 26

/-- The pseudo-instructions of R135. A label is the address it stands for. -/
inductive Pseudo
  | nop
  | b (label : Word)
  | bal (label : Word)
  | move (rd rs : Reg)
  | beqz (rs : Reg) (label : Word)
  | bnez (rs : Reg) (label : Word)
  | li (rt : Reg) (imm : Word)
  | la (rt : Reg) (addr : Word)
  | not (rd rs : Reg)
  | neg (rd rs : Reg)
  | negu (rd rs : Reg)
  | blt (rs rt : Reg) (label : Word)
  | bge (rs rt : Reg) (label : Word)
  | bgt (rs rt : Reg) (label : Word)
  | ble (rs rt : Reg) (label : Word)
  | bltu (rs rt : Reg) (label : Word)
  | bgeu (rs rt : Reg) (label : Word)
  | bgtu (rs rt : Reg) (label : Word)
  | bleu (rs rt : Reg) (label : Word)
  deriving DecidableEq, Repr

/-- The pair that loads 32 bits: the upper half, then the lower (R135). -/
def loadBoth (rt : Reg) (v : Word) : List Instr :=
  [.lui rt (v.extractLsb' 16 16), .ori rt rt (v.extractLsb' 0 16)]

/-- `$at` (R22). -/
def regAt : Reg := 1

/-- The expansion of a pseudo-instruction whose first word stands at `pc` (R135): a branch that comes second stands at
`pc + 4`. The immediate of `li` is read as a signed number where it is in the range of `addiu`. -/
def Pseudo.expand (pc : Word) : Pseudo → List Instr
  | .nop => [.nop 0]
  | .b l => [.b (offsetTo pc l)]
  | .bal l => [.bal (offsetTo pc l)]
  | .move rd rs => [.addu rd rs 0]
  | .beqz rs l => if rs = 0 then [.b (offsetTo pc l)] else [.beq rs 0 (offsetTo pc l)]
  | .bnez rs l => [.bne rs 0 (offsetTo pc l)]
  | .li rt v =>
    if -32768 ≤ v.toInt ∧ v.toInt ≤ 32767 then [.addiu rt 0 (v.extractLsb' 0 16)]
    else if v.toNat ≤ 65535 then [.ori rt 0 (v.extractLsb' 0 16)]
    else loadBoth rt v
  | .la rt a => loadBoth rt a
  | .not rd rs => [.nor rd rs 0]
  | .neg rd rs => [.sub rd 0 rs]
  | .negu rd rs => [.subu rd 0 rs]
  | .blt rs rt l => [.slt regAt rs rt, .bne regAt 0 (offsetTo (pc + 4) l)]
  | .bge rs rt l => [.slt regAt rs rt, .beq regAt 0 (offsetTo (pc + 4) l)]
  | .bgt rs rt l => [.slt regAt rt rs, .bne regAt 0 (offsetTo (pc + 4) l)]
  | .ble rs rt l => [.slt regAt rt rs, .beq regAt 0 (offsetTo (pc + 4) l)]
  | .bltu rs rt l => [.sltu regAt rs rt, .bne regAt 0 (offsetTo (pc + 4) l)]
  | .bgeu rs rt l => [.sltu regAt rs rt, .beq regAt 0 (offsetTo (pc + 4) l)]
  | .bgtu rs rt l => [.sltu regAt rt rs, .bne regAt 0 (offsetTo (pc + 4) l)]
  | .bleu rs rt l => [.sltu regAt rt rs, .beq regAt 0 (offsetTo (pc + 4) l)]

end Sys2Proof.Machine
end

