-- ==== Sys2Proof/Tests/Slice0.lean ====
section
/-! SUPPORT. The model's own tests. Every expected value is taken from the spec: the encodings of opcode_table.json and
30_encoding.md, the vectors of 95_test_vectors.md, the examples of the rules. -/

namespace Sys2Proof.Tests

-- Each test is checked before the next begins: waiting together, they would hold more threads than the memory limit allows.
set_option Elab.async false

open Sys2Proof Sys2Proof.Machine

/-! ## Well-formedness: one ill-formed term for each check (R107, R111 to R113) -/

theorem test_wellFormed_refuses :
    [Instr.nop 1, .nop 3, .sll 0 0 4, .beq 0 0 3, .bgezal 0 3, .sltiu 0 0 0xabc1, .sltiu 0 0 0xabc2].all
      (fun i => !i.wellFormed) = true := by decide

theorem test_wellFormed_accepts :
    [Instr.nop 0, .nop 2, .sll 1 0 4, .sll 0 1 4, .beq 1 0 3, .beq 0 1 3, .bgezal 1 3, .sltiu 1 0 0xabc1,
      .sltiu 0 1 0xabc2, .sltiu 0 0 0xabc3].all Instr.wellFormed = true := by decide

/-! ## Decode: a word of every row, its operand fields filled with distinct values (R92, R102, R110 to R123) -/

/-- A word and the instruction it stands for. -/
structure DecodeCase where
  word : Word
  instr : Instr

/-- The word decodes to its instruction, and the instruction is well-formed. -/
def DecodeCase.ok (c : DecodeCase) : Bool := decodeWord c.word == .instr c.instr && c.instr.wellFormed

/-- The first half of the implemented rows. -/
def implementedA : List DecodeCase :=
  [
    ⟨0x00000440, .nop 17⟩,
    ⟨0x00114d80, .sll 9 17 22⟩,
    ⟨0x00114d82, .srl 9 17 22⟩,
    ⟨0x00114d83, .sra 9 17 22⟩,
    ⟨0x0229b004, .sllv 22 9 17⟩,
    ⟨0x0229b006, .srlv 22 9 17⟩,
    ⟨0x0229b007, .srav 22 9 17⟩,
    ⟨0x02200008, .jr 17⟩,
    ⟨0x02204809, .jalr 9 17⟩,
    ⟨0x0150c84c, .syscall 0x54321⟩,
    ⟨0x0150c84d, .brk 0x54321⟩,
    ⟨0x0000044f, .sync 17⟩] ++
  [
    ⟨0x00008810, .mfhi 17⟩,
    ⟨0x02200011, .mthi 17⟩,
    ⟨0x00008812, .mflo 17⟩,
    ⟨0x02200013, .mtlo 17⟩,
    ⟨0x02290018, .mult 17 9⟩,
    ⟨0x02290019, .multu 17 9⟩,
    ⟨0x0229001a, .div 17 9⟩,
    ⟨0x0229001b, .divu 17 9⟩,
    ⟨0x0229b020, .add 22 17 9⟩,
    ⟨0x0229b021, .addu 22 17 9⟩,
    ⟨0x0229b022, .sub 22 17 9⟩,
    ⟨0x0229b023, .subu 22 17 9⟩] ++
  [
    ⟨0x0229b024, .and 22 17 9⟩,
    ⟨0x0229b025, .or 22 17 9⟩,
    ⟨0x0229b026, .xor 22 17 9⟩,
    ⟨0x0229b027, .nor 22 17 9⟩,
    ⟨0x0229b02a, .slt 22 17 9⟩,
    ⟨0x0229b02b, .sltu 22 17 9⟩,
    ⟨0x0229a970, .tge 17 9 677⟩,
    ⟨0x0229a971, .tgeu 17 9 677⟩,
    ⟨0x0229a972, .tlt 17 9 677⟩,
    ⟨0x0229a973, .tltu 17 9 677⟩,
    ⟨0x0229a974, .teq 17 9 677⟩,
    ⟨0x0229a976, .tne 17 9 677⟩] ++
  [
    ⟨0x06208123, .bltz 17 0x8123⟩,
    ⟨0x06218123, .bgez 17 0x8123⟩,
    ⟨0x06288123, .tgei 17 0x8123⟩,
    ⟨0x06298123, .tgeiu 17 0x8123⟩,
    ⟨0x062a8123, .tlti 17 0x8123⟩,
    ⟨0x062b8123, .tltiu 17 0x8123⟩,
    ⟨0x062c8123, .teqi 17 0x8123⟩,
    ⟨0x062e8123, .tnei 17 0x8123⟩,
    ⟨0x06308123, .bltzal 17 0x8123⟩,
    ⟨0x04118123, .bal 0x8123⟩,
    ⟨0x06318123, .bgezal 17 0x8123⟩,
    ⟨0x0a345678, .j 0x2345678⟩] ++
  [
    ⟨0x0e345678, .jal 0x2345678⟩,
    ⟨0x10008123, .b 0x8123⟩,
    ⟨0x12298123, .beq 17 9 0x8123⟩,
    ⟨0x16298123, .bne 17 9 0x8123⟩,
    ⟨0x1a208123, .blez 17 0x8123⟩,
    ⟨0x1e208123, .bgtz 17 0x8123⟩,
    ⟨0x22298123, .addi 9 17 0x8123⟩,
    ⟨0x26298123, .addiu 9 17 0x8123⟩,
    ⟨0x2a298123, .slti 9 17 0x8123⟩,
    ⟨0x2e298123, .sltiu 9 17 0x8123⟩,
    ⟨0x32298123, .andi 9 17 0x8123⟩,
    ⟨0x36298123, .ori 9 17 0x8123⟩] ++
  [
    ⟨0x3a298123, .xori 9 17 0x8123⟩,
    ⟨0x3c118123, .lui 17 0x8123⟩,
    ⟨0x44114800, .mfc1 17 9⟩,
    ⟨0x44514800, .cfc1 17 9⟩,
    ⟨0x44914800, .mtc1 17 9⟩,
    ⟨0x44d14800, .ctc1 17 9⟩,
    ⟨0x45148123, .bc1f 5 0x8123⟩,
    ⟨0x45158123, .bc1t 5 0x8123⟩,
    ⟨0x45168123, .bc1fl 5 0x8123⟩,
    ⟨0x45178123, .bc1tl 5 0x8123⟩,
    ⟨0x46114d80, .addS 22 9 17⟩,
    ⟨0x46114d81, .subS 22 9 17⟩] ++
  [
    ⟨0x46114d82, .mulS 22 9 17⟩,
    ⟨0x46114d83, .divS 22 9 17⟩]

theorem test_decode_implementedA : implementedA.all DecodeCase.ok = true := by decide +kernel

/-- The second half of the implemented rows. -/
def implementedB : List DecodeCase :=
  [
    ⟨0x46008a44, .sqrtS 9 17⟩,
    ⟨0x46008a45, .absS 9 17⟩,
    ⟨0x46008a46, .movS 9 17⟩,
    ⟨0x46008a47, .negS 9 17⟩,
    ⟨0x46008a61, .cvtDS 9 17⟩,
    ⟨0x46008a64, .cvtWS 9 17⟩,
    ⟨0x46008a65, .cvtLS 9 17⟩,
    ⟨0x46114d30, .cFS 5 9 17⟩,
    ⟨0x46114d31, .cUnS 5 9 17⟩,
    ⟨0x46114d32, .cEqS 5 9 17⟩,
    ⟨0x46114d33, .cUeqS 5 9 17⟩,
    ⟨0x46114d34, .cOltS 5 9 17⟩] ++
  [
    ⟨0x46114d35, .cUltS 5 9 17⟩,
    ⟨0x46114d36, .cOleS 5 9 17⟩,
    ⟨0x46114d37, .cUleS 5 9 17⟩,
    ⟨0x46114d38, .cSfS 5 9 17⟩,
    ⟨0x46114d39, .cNgleS 5 9 17⟩,
    ⟨0x46114d3a, .cSeqS 5 9 17⟩,
    ⟨0x46114d3b, .cNglS 5 9 17⟩,
    ⟨0x46114d3c, .cLtS 5 9 17⟩,
    ⟨0x46114d3d, .cNgeS 5 9 17⟩,
    ⟨0x46114d3e, .cLeS 5 9 17⟩,
    ⟨0x46114d3f, .cNgtS 5 9 17⟩,
    ⟨0x46314d80, .addD 22 9 17⟩] ++
  [
    ⟨0x46314d81, .subD 22 9 17⟩,
    ⟨0x46314d82, .mulD 22 9 17⟩,
    ⟨0x46314d83, .divD 22 9 17⟩,
    ⟨0x46208a44, .sqrtD 9 17⟩,
    ⟨0x46208a45, .absD 9 17⟩,
    ⟨0x46208a46, .movD 9 17⟩,
    ⟨0x46208a47, .negD 9 17⟩,
    ⟨0x46208a60, .cvtSD 9 17⟩,
    ⟨0x46208a64, .cvtWD 9 17⟩,
    ⟨0x46208a65, .cvtLD 9 17⟩,
    ⟨0x46314d30, .cFD 5 9 17⟩,
    ⟨0x46314d31, .cUnD 5 9 17⟩] ++
  [
    ⟨0x46314d32, .cEqD 5 9 17⟩,
    ⟨0x46314d33, .cUeqD 5 9 17⟩,
    ⟨0x46314d34, .cOltD 5 9 17⟩,
    ⟨0x46314d35, .cUltD 5 9 17⟩,
    ⟨0x46314d36, .cOleD 5 9 17⟩,
    ⟨0x46314d37, .cUleD 5 9 17⟩,
    ⟨0x46314d38, .cSfD 5 9 17⟩,
    ⟨0x46314d39, .cNgleD 5 9 17⟩,
    ⟨0x46314d3a, .cSeqD 5 9 17⟩,
    ⟨0x46314d3b, .cNglD 5 9 17⟩,
    ⟨0x46314d3c, .cLtD 5 9 17⟩,
    ⟨0x46314d3d, .cNgeD 5 9 17⟩] ++
  [
    ⟨0x46314d3e, .cLeD 5 9 17⟩,
    ⟨0x46314d3f, .cNgtD 5 9 17⟩,
    ⟨0x46808a60, .cvtSW 9 17⟩,
    ⟨0x46808a61, .cvtDW 9 17⟩,
    ⟨0x46a08a60, .cvtSL 9 17⟩,
    ⟨0x46a08a61, .cvtDL 9 17⟩,
    ⟨0x82298123, .lb 9 17 0x8123⟩,
    ⟨0x86298123, .lh 9 17 0x8123⟩,
    ⟨0x8a298123, .lwl 9 17 0x8123⟩,
    ⟨0x8e298123, .lw 9 17 0x8123⟩,
    ⟨0x92298123, .lbu 9 17 0x8123⟩,
    ⟨0x96298123, .lhu 9 17 0x8123⟩] ++
  [
    ⟨0x9a298123, .lwr 9 17 0x8123⟩,
    ⟨0xa2298123, .sb 9 17 0x8123⟩,
    ⟨0xa6298123, .sh 9 17 0x8123⟩,
    ⟨0xaa298123, .swl 9 17 0x8123⟩,
    ⟨0xae298123, .sw 9 17 0x8123⟩,
    ⟨0xba298123, .swr 9 17 0x8123⟩,
    ⟨0xc2298123, .ll 9 17 0x8123⟩,
    ⟨0xe2298123, .sc 9 17 0x8123⟩,
    ⟨0xc6298123, .lwc1 9 17 0x8123⟩,
    ⟨0xd6298123, .ldc1 9 17 0x8123⟩,
    ⟨0xe6298123, .swc1 9 17 0x8123⟩,
    ⟨0xf6298123, .sdc1 9 17 0x8123⟩]

theorem test_decode_implementedB : implementedB.all DecodeCase.ok = true := by decide +kernel

/-- The unimplemented markers and sentinels. -/
def markers : List DecodeCase :=
  [
    ⟨0x00000040, .ssnop⟩,
    ⟨0x000000c0, .ehb⟩,
    ⟨0x022ab141, .movf⟩,
    ⟨0x022bb141, .movt⟩,
    ⟨0x00314d82, .rotr⟩,
    ⟨0x0229b046, .rotrv⟩,
    ⟨0x0229b548, .jrHb⟩,
    ⟨0x0229b549, .jalrHb⟩,
    ⟨0x0229b14a, .movz⟩,
    ⟨0x0229b14b, .movn⟩,
    ⟨0x06228123, .bltzl⟩,
    ⟨0x06238123, .bgezl⟩] ++
  [
    ⟨0x06328123, .bltzall⟩,
    ⟨0x06338123, .bgezall⟩,
    ⟨0x063f8123, .synci⟩,
    ⟨0x2c00abc1, .failSentinel⟩,
    ⟨0x2c00abc2, .passSentinel⟩,
    ⟨0x4229b165, .cop0⟩,
    ⟨0x40114da5, .mfc0⟩,
    ⟨0x40914da5, .mtc0⟩,
    ⟨0x41514da5, .rdpgpr⟩,
    ⟨0x41d14da5, .wrpgpr⟩,
    ⟨0x41714d85, .di⟩,
    ⟨0x41714da5, .ei⟩] ++
  [
    ⟨0x42a9b141, .tlbr⟩,
    ⟨0x42a9b142, .tlbwi⟩,
    ⟨0x42a9b146, .tlbwr⟩,
    ⟨0x42a9b148, .tlbp⟩,
    ⟨0x42a9b158, .eret⟩,
    ⟨0x42a9b15f, .deret⟩,
    ⟨0x42a9b160, .wait⟩,
    ⟨0x44314da5, .dmfc1⟩,
    ⟨0x44714da5, .mfhc1⟩,
    ⟨0x44b14da5, .dmtc1⟩,
    ⟨0x44f14da5, .mthc1⟩,
    ⟨0x45314da5, .bc1any2⟩] ++
  [
    ⟨0x45514da5, .bc1any4⟩,
    ⟨0x46114d88, .roundLS⟩,
    ⟨0x46114d89, .truncLS⟩,
    ⟨0x46114d8a, .ceilLS⟩,
    ⟨0x46114d8b, .floorLS⟩,
    ⟨0x46114d8c, .roundWS⟩,
    ⟨0x46114d8d, .truncWS⟩,
    ⟨0x46114d8e, .ceilWS⟩,
    ⟨0x46114d8f, .floorWS⟩,
    ⟨0x46114d92, .movzS⟩,
    ⟨0x46114d93, .movnS⟩,
    ⟨0x46114d95, .recipS⟩] ++
  [
    ⟨0x46114d96, .rsqrtS⟩,
    ⟨0x460a4d91, .movfS⟩,
    ⟨0x460b4d91, .movtS⟩,
    ⟨0x46114da6, .cvtPsS⟩,
    ⟨0x46314d88, .roundLD⟩,
    ⟨0x46314d89, .truncLD⟩,
    ⟨0x46314d8a, .ceilLD⟩,
    ⟨0x46314d8b, .floorLD⟩,
    ⟨0x46314d8c, .roundWD⟩,
    ⟨0x46314d8d, .truncWD⟩,
    ⟨0x46314d8e, .ceilWD⟩,
    ⟨0x46314d8f, .floorWD⟩] ++
  [
    ⟨0x46314d92, .movzD⟩,
    ⟨0x46314d93, .movnD⟩,
    ⟨0x46314d95, .recipD⟩,
    ⟨0x46314d96, .rsqrtD⟩,
    ⟨0x462a4d91, .movfD⟩,
    ⟨0x462b4d91, .movtD⟩,
    ⟨0x46d14da5, .fmtPs⟩,
    ⟨0x4a29b165, .cop2⟩,
    ⟨0x4e29b140, .lwxc1⟩,
    ⟨0x4e29b141, .ldxc1⟩,
    ⟨0x4e29b145, .luxc1⟩,
    ⟨0x4e29b148, .swxc1⟩] ++
  [
    ⟨0x4e29b149, .sdxc1⟩,
    ⟨0x4e29b14d, .suxc1⟩,
    ⟨0x4e29b14f, .prefx⟩,
    ⟨0x4e29b15e, .alnvPs⟩,
    ⟨0x4e29b160, .maddS⟩,
    ⟨0x4e29b161, .maddD⟩,
    ⟨0x4e29b166, .maddPs⟩,
    ⟨0x4e29b168, .msubS⟩,
    ⟨0x4e29b169, .msubD⟩,
    ⟨0x4e29b16e, .msubPs⟩,
    ⟨0x4e29b170, .nmaddS⟩,
    ⟨0x4e29b171, .nmaddD⟩] ++
  [
    ⟨0x4e29b176, .nmaddPs⟩,
    ⟨0x4e29b178, .nmsubS⟩,
    ⟨0x4e29b179, .nmsubD⟩,
    ⟨0x4e29b17e, .nmsubPs⟩,
    ⟨0x52298123, .beql⟩,
    ⟨0x56298123, .bnel⟩,
    ⟨0x5a298123, .blezl⟩,
    ⟨0x5e298123, .bgtzl⟩,
    ⟨0x7229b140, .madd⟩,
    ⟨0x7229b141, .maddu⟩,
    ⟨0x7229b142, .mul⟩,
    ⟨0x7229b144, .msub⟩] ++
  [
    ⟨0x7229b145, .msubu⟩,
    ⟨0x7229b160, .clz⟩,
    ⟨0x7229b161, .clo⟩,
    ⟨0x7229b17f, .sdbbp⟩,
    ⟨0x76345678, .jalx⟩,
    ⟨0x7e29b140, .ext⟩,
    ⟨0x7e29b144, .ins⟩,
    ⟨0x7e29b0a0, .wsbh⟩,
    ⟨0x7e29b420, .seb⟩,
    ⟨0x7e29b620, .seh⟩,
    ⟨0x7e29b17b, .rdhwr⟩,
    ⟨0xbe298123, .cache⟩] ++
  [
    ⟨0xce298123, .pref⟩,
    ⟨0xca298123, .lwc2⟩,
    ⟨0xda298123, .ldc2⟩,
    ⟨0xea298123, .swc2⟩,
    ⟨0xfa298123, .sdc2⟩]

theorem test_decode_markers : markers.all DecodeCase.ok = true := by decide +kernel

/-- The words of 95 section 2.1 that decode to `Unknown`. -/
theorem test_decode_unknown :
    [0x00200000#32, 0x00000005, 0x03E00808, 0x01095060, 0x04050005, 0x3C28FFFF, 0x44080801, 0x46010804, 0x460100BC,
      0x46800024, 0x46E00000, 0x70000003, 0x60000000, 0xFC000000, 0xEC000000].all
      (fun w => decodeWord w == .unknown) = true := by decide +kernel

/-- The table's numbering of a word's bits (R90). -/
theorem test_decodeTableWord : decodeTableWord 32 0x8c880004 = some (.lw 8 4 4) := by decide +kernel

/-! ## Execution: the vectors of 95 sections 2.2 to 2.6 -/

/-- What a vector says has changed. -/
inductive Effect
  | reg (r : RegName) (v : Word)
  | npc (v : Word)
  | nnpc (v : Word)
  | word (a v : Word)
  | fault (f : Fault)
  | warn (mnemonic : String)
  | ended (e : RunEnd)

/-- A vector: the word, the registers set before, what has changed after. -/
structure Vec where
  word : Word
  before : List (RegName × Word)
  after : List Effect

/-- The state before: the memory map and data bytes of 95 section 2. -/
def start (regs : List (RegName × Word)) : State :=
  State.launch
    { mapped := [⟨0x1000, 0x3000⟩, ⟨0x400000, 0x10000⟩]
      image := [(0x1001, 0x80), (0x1002, 0xFF), (0x1003, 0x7F), (0x1004, 0x11), (0x1005, 0x22), (0x1006, 0x33), (0x1007, 0x44)]
      first := ⟨0, 0, 0x400000, regs⟩, rest := [], haltPc := none, schedule := [], hostAnswers := [],
      params := .default }

/-- An effect, applied. -/
def Effect.apply (s : State) : Effect → State
  | .reg r v => s.setLive (s.live.setNamed r v)
  | .npc v => s.setNpc v
  | .nnpc v => s.setNnpc v
  | .word a v => s.setMem (s.mem.setWord a v)
  | .fault f => s.recordFault f
  | .warn n => s.warn n
  | .ended e => s.endRun e

/-- The vector's execute gives exactly the state it says: nothing else has changed. -/
def Vec.ok (v : Vec) : Bool :=
  match execLeaf (decodeStatic v.word) (start v.before) with
  | .next t => t == v.after.foldl Effect.apply (start v.before)
  | .fault _ => false
  | .refused _ => false

/-- 95 section 2.2. -/
def integerVectors : List Vec :=
  [
    ⟨0x00084900, [(.x 8, 0x8000000F)], [.reg (.x 9) 0x000000F0]⟩,
    ⟨0x00080040, [(.x 8, 0x00000003)], [.reg (.x 0) 0x00000006]⟩,
    ⟨0x00084902, [(.x 8, 0x8000000F)], [.reg (.x 9) 0x08000000]⟩,
    ⟨0x00084903, [(.x 8, 0x8000000F)], [.reg (.x 9) 0xF8000000]⟩,
    ⟨0x00084FC3, [(.x 8, 0x80000000)], [.reg (.x 9) 0xFFFFFFFF]⟩,
    ⟨0x01484804, [(.x 8, 0x00000001), (.x 10, 0x00000021)], [.reg (.x 9) 0x00000002]⟩,
    ⟨0x01484806, [(.x 8, 0x80000000), (.x 10, 0xFFFFFFFF)], [.reg (.x 9) 0x00000001]⟩,
    ⟨0x01484807, [(.x 8, 0x80000000), (.x 10, 0x0000003F)], [.reg (.x 9) 0xFFFFFFFF]⟩,
    ⟨0x01095020, [(.x 8, 0x00000005), (.x 9, 0x00000007)], [.reg (.x 10) 0x0000000C]⟩,
    ⟨0x01095020, [(.x 8, 0x7FFFFFFF), (.x 9, 0x00000001)], [.reg (.x 10) 0x80000000, .warn "add"]⟩] ++
  [
    ⟨0x01095021, [(.x 8, 0xFFFFFFFF), (.x 9, 0x00000002)], [.reg (.x 10) 0x00000001]⟩,
    ⟨0x01095022, [(.x 8, 0x80000000), (.x 9, 0x00000001)], [.reg (.x 10) 0x7FFFFFFF, .warn "sub"]⟩,
    ⟨0x01095023, [(.x 8, 0x00000000), (.x 9, 0x00000001)], [.reg (.x 10) 0xFFFFFFFF]⟩,
    ⟨0x01095024, [(.x 8, 0xF0F0FFFF), (.x 9, 0x0FF0F00F)], [.reg (.x 10) 0x00F0F00F]⟩,
    ⟨0x01095025, [(.x 8, 0xF0F0FFFF), (.x 9, 0x0FF0F00F)], [.reg (.x 10) 0xFFF0FFFF]⟩,
    ⟨0x01095026, [(.x 8, 0xF0F0FFFF), (.x 9, 0x0FF0F00F)], [.reg (.x 10) 0xFF000FF0]⟩,
    ⟨0x01095027, [(.x 8, 0xF0F0FFFF), (.x 9, 0x0FF0F00F)], [.reg (.x 10) 0x000F0000]⟩,
    ⟨0x00005027, [], [.reg (.x 10) 0xFFFFFFFF]⟩,
    ⟨0x0109502A, [(.x 8, 0xFFFFFFFF), (.x 9, 0x00000001)], [.reg (.x 10) 0x00000001]⟩,
    ⟨0x0109502B, [(.x 8, 0xFFFFFFFF), (.x 9, 0x00000001), (.x 10, 0xDEADBEEF)], [.reg (.x 10) 0x00000000]⟩] ++
  [
    ⟨0x01090018, [(.x 8, 0xFFFFFFFE), (.x 9, 0x00000003)], [.reg .lo 0xFFFFFFFA, .reg .hi 0xFFFFFFFF]⟩,
    ⟨0x01090018, [(.x 8, 0x80000000), (.x 9, 0x80000000), (.lo, 0x11111111), (.hi, 0x11111111)], [.reg .lo 0x00000000, .reg .hi 0x40000000]⟩,
    ⟨0x01090019, [(.x 8, 0xFFFFFFFF), (.x 9, 0xFFFFFFFF)], [.reg .lo 0x00000001, .reg .hi 0xFFFFFFFE]⟩,
    ⟨0x0109001A, [(.x 8, 0xFFFFFFF9), (.x 9, 0x00000002)], [.reg .lo 0xFFFFFFFD, .reg .hi 0xFFFFFFFF]⟩,
    ⟨0x0109001A, [(.x 8, 0x00000007), (.x 9, 0xFFFFFFFE)], [.reg .lo 0xFFFFFFFD, .reg .hi 0x00000001]⟩,
    ⟨0x0109001A, [(.x 8, 0x00000007), (.x 9, 0x00000000), (.lo, 0x11111111), (.hi, 0x11111111)], [.fault (.divideCorner 0x00400000 "div")]⟩,
    ⟨0x0109001A, [(.x 8, 0x80000000), (.x 9, 0xFFFFFFFF)], [.fault (.divideCorner 0x00400000 "div")]⟩,
    ⟨0x0109001B, [(.x 8, 0xFFFFFFF9), (.x 9, 0x00000002)], [.reg .lo 0x7FFFFFFC, .reg .hi 0x00000001]⟩,
    ⟨0x0109001B, [(.x 8, 0x00000007)], [.fault (.divideCorner 0x00400000 "divu")]⟩,
    ⟨0x00005010, [(.hi, 0x12345678)], [.reg (.x 10) 0x12345678]⟩] ++
  [
    ⟨0x01000011, [(.x 8, 0xCAFEBABE)], [.reg .hi 0xCAFEBABE]⟩,
    ⟨0x00005012, [(.lo, 0x9ABCDEF0)], [.reg (.x 10) 0x9ABCDEF0]⟩,
    ⟨0x01000013, [(.x 8, 0xCAFEBABE)], [.reg .lo 0xCAFEBABE]⟩,
    ⟨0x2109FFFF, [(.x 8, 0x00000000)], [.reg (.x 9) 0xFFFFFFFF]⟩,
    ⟨0x21090001, [(.x 8, 0x7FFFFFFF)], [.reg (.x 9) 0x80000000, .warn "addi"]⟩,
    ⟨0x25098000, [(.x 8, 0x00000000)], [.reg (.x 9) 0xFFFF8000]⟩,
    ⟨0x2909FFFF, [(.x 8, 0xFFFFFFFE)], [.reg (.x 9) 0x00000001]⟩,
    ⟨0x29098000, [(.x 8, 0x00000000), (.x 9, 0xDEADBEEF)], [.reg (.x 9) 0x00000000]⟩,
    ⟨0x2D098000, [(.x 8, 0x00007FFF)], [.reg (.x 9) 0x00000001]⟩,
    ⟨0x2D09FFFF, [(.x 8, 0xFFFFFFF0), (.x 9, 0xDEADBEEF)], [.reg (.x 9) 0x00000000]⟩] ++
  [
    ⟨0x31098000, [(.x 8, 0xFFFFFFFF)], [.reg (.x 9) 0x00008000]⟩,
    ⟨0x35098001, [(.x 8, 0x12340000)], [.reg (.x 9) 0x12348001]⟩,
    ⟨0x3909FFFF, [(.x 8, 0xFFFF00FF)], [.reg (.x 9) 0xFFFFFF00]⟩,
    ⟨0x3C098001, [], [.reg (.x 9) 0x80010000]⟩]

theorem test_integer_vectors : integerVectors.all Vec.ok = true := by decide +kernel

/-- 95 section 2.3. -/
def branchVectors : List Vec :=
  [
    ⟨0x11090003, [(.x 8, 0x00000001), (.x 9, 0x00000002)], []⟩,
    ⟨0x11090003, [(.x 8, 0x00000002), (.x 9, 0x00000002)], [.nnpc 0x00400010]⟩,
    ⟨0x1000FFFF, [], [.nnpc 0x00400000]⟩,
    ⟨0x10000000, [], [.nnpc 0x00400004]⟩,
    ⟨0x1509FFFC, [(.x 8, 0x00000001), (.x 9, 0x00000002)], [.nnpc 0x003FFFF4]⟩,
    ⟨0x19000002, [(.x 8, 0x00000000)], [.nnpc 0x0040000C]⟩,
    ⟨0x19000002, [(.x 8, 0x00000001)], []⟩,
    ⟨0x1D000002, [(.x 8, 0x80000000)], []⟩,
    ⟨0x1D000002, [(.x 8, 0x7FFFFFFF)], [.nnpc 0x0040000C]⟩,
    ⟨0x05000002, [(.x 8, 0xFFFFFFFF)], [.nnpc 0x0040000C]⟩] ++
  [
    ⟨0x05010002, [(.x 8, 0x00000000)], [.nnpc 0x0040000C]⟩,
    ⟨0x04110010, [], [.reg (.x 31) 0x00400008, .nnpc 0x00400044]⟩,
    ⟨0x05100002, [(.x 8, 0x00000005)], [.reg (.x 31) 0x00400008]⟩,
    ⟨0x05110002, [(.x 8, 0x00000005)], [.reg (.x 31) 0x00400008, .nnpc 0x0040000C]⟩,
    ⟨0x07F00002, [(.x 31, 0xFFFFFFFF)], [.fault (.unpredictableOperands 0x00400000 "bltzal")]⟩,
    ⟨0x45000002, [], [.nnpc 0x0040000C]⟩,
    ⟨0x45040002, [(.fcsr, 0x02000000)], []⟩,
    ⟨0x451D0002, [(.fcsr, 0x80000000)], [.nnpc 0x0040000C]⟩,
    ⟨0x45020002, [], [.nnpc 0x0040000C]⟩,
    ⟨0x45020002, [(.fcsr, 0x00800000)], [.nnpc 0x0040000C, .npc 0x00400008]⟩] ++
  [
    ⟨0x45030002, [], [.nnpc 0x0040000C, .npc 0x00400008]⟩,
    ⟨0x0BFFFFFF, [], [.nnpc 0x0FFFFFFC]⟩,
    ⟨0x0C100040, [], [.reg (.x 31) 0x00400008, .nnpc 0x00400100]⟩,
    ⟨0x03E00008, [(.x 31, 0x00400101)], [.nnpc 0x00400101]⟩,
    ⟨0x0320F809, [(.x 25, 0x00401000)], [.reg (.x 31) 0x00400008, .nnpc 0x00401000]⟩,
    ⟨0x03204009, [(.x 25, 0x00401000)], [.reg (.x 8) 0x00400008, .nnpc 0x00401000]⟩,
    ⟨0x0320C809, [(.x 25, 0x00401000)], [.fault (.unpredictableOperands 0x00400000 "jalr")]⟩]

theorem test_branch_vectors : branchVectors.all Vec.ok = true := by decide +kernel

/-- 95 section 2.4. -/
def memoryVectors : List Vec :=
  [
    ⟨0x81090001, [(.x 8, 0x00001000)], [.reg (.x 9) 0xFFFFFF80, .reg .ea 0x00001001]⟩,
    ⟨0x91090001, [(.x 8, 0x00001000)], [.reg (.x 9) 0x00000080, .reg .ea 0x00001001]⟩,
    ⟨0x85090000, [(.x 8, 0x00001000)], [.reg (.x 9) 0xFFFF8000, .reg .ea 0x00001000]⟩,
    ⟨0x85090002, [(.x 8, 0x00001000)], [.reg (.x 9) 0x00007FFF, .reg .ea 0x00001002]⟩,
    ⟨0x95090000, [(.x 8, 0x00001000)], [.reg (.x 9) 0x00008000, .reg .ea 0x00001000]⟩,
    ⟨0x8D09FFFC, [(.x 8, 0x00001008)], [.reg (.x 9) 0x44332211, .reg .ea 0x00001004]⟩,
    ⟨0x8D090002, [(.x 8, 0x00001000)], [.reg .ea 0x00001002, .fault (.dataMisaligned 0x00400000 0x00001002)]⟩,
    ⟨0x85090001, [(.x 8, 0x00001000)], [.reg .ea 0x00001001, .fault (.dataMisaligned 0x00400000 0x00001001)]⟩,
    ⟨0x8D090000, [(.x 8, 0x00008000)], [.reg .ea 0x00008000, .fault (.dataUnmapped 0x00400000 0x00008000)]⟩,
    ⟨0xC1090004, [(.x 8, 0x00001000)], [.reg (.x 9) 0x44332211, .reg .ea 0x00001004]⟩] ++
  [
    ⟨0xA1090003, [(.x 8, 0x00001000), (.x 9, 0xAABBCCDD)], [.reg .ea 0x00001003, .word 0x00001000 0xDDFF8000]⟩,
    ⟨0xA5090002, [(.x 8, 0x00001000), (.x 9, 0xAABBCCDD)], [.reg .ea 0x00001002, .word 0x00001000 0xCCDD8000]⟩,
    ⟨0xAD090004, [(.x 8, 0x00001000), (.x 9, 0xAABBCCDD)], [.reg .ea 0x00001004, .word 0x00001004 0xAABBCCDD]⟩,
    ⟨0xE1090000, [(.x 8, 0x00001000), (.x 9, 0xAABBCCDD)], [.reg (.x 9) 0x00000001, .reg .ea 0x00001000, .word 0x00001000 0xAABBCCDD]⟩,
    ⟨0xAD090001, [(.x 8, 0x00001000), (.x 9, 0xAABBCCDD)], [.reg .ea 0x00001001, .fault (.dataMisaligned 0x00400000 0x00001001)]⟩,
    ⟨0x89090005, [(.x 8, 0x00001000), (.x 9, 0xAABBCCDD)], [.reg (.x 9) 0x2211CCDD, .reg .ea 0x00001004]⟩,
    ⟨0x99090005, [(.x 8, 0x00001000), (.x 9, 0xAABBCCDD)], [.reg (.x 9) 0xAA443322, .reg .ea 0x00001004]⟩,
    ⟨0xA9090006, [(.x 8, 0x00001000), (.x 9, 0xAABBCCDD)], [.reg .ea 0x00001004, .word 0x00001004 0x44AABBCC]⟩,
    ⟨0xB9090006, [(.x 8, 0x00001000), (.x 9, 0xAABBCCDD)], [.reg .ea 0x00001004, .word 0x00001004 0xCCDD2211]⟩,
    ⟨0x89090003, [(.x 8, 0x00004000), (.x 9, 0xAABBCCDD)], [.reg .ea 0x00004000, .fault (.dataUnmapped 0x00400000 0x00004000)]⟩] ++
  [
    ⟨0xC5030004, [(.x 8, 0x00001000)], [.reg (.fw 3) 0x44332211, .reg .ea 0x00001004]⟩,
    ⟨0xD5020000, [(.x 8, 0x00001000)], [.reg (.fw 2) 0x7FFF8000, .reg (.fw 3) 0x44332211, .reg .ea 0x00001000]⟩,
    ⟨0xD5030000, [(.x 8, 0x00001000)], [.reg (.fw 2) 0x7FFF8000, .reg (.fw 3) 0x44332211, .reg .ea 0x00001000]⟩,
    ⟨0xD5020004, [(.x 8, 0x00001000)], [.reg .ea 0x00001004, .fault (.dataMisaligned 0x00400000 0x00001004)]⟩,
    ⟨0xE5010000, [(.x 8, 0x00001000), (.fw 1, 0x3F800000)], [.reg .ea 0x00001000, .word 0x00001000 0x3F800000]⟩,
    ⟨0xF5000000, [(.x 8, 0x00001000), (.fw 0, 0x00000000), (.fw 1, 0x3FF00000)], [.reg .ea 0x00001000, .word 0x00001000 0x00000000, .word 0x00001004 0x3FF00000]⟩,
    ⟨0x8D000000, [(.x 8, 0x00001000)], [.reg (.x 0) 0x7FFF8000, .reg .ea 0x00001000]⟩]

theorem test_memory_vectors : memoryVectors.all Vec.ok = true := by decide +kernel

/-- 95 section 2.5. -/
def floatVectors : List Vec :=
  [
    ⟨0x44080800, [(.fw 1, 0x3F800000)], [.reg (.x 8) 0x3F800000]⟩,
    ⟨0x44881800, [(.x 8, 0x40490FDB)], [.reg (.fw 3) 0x40490FDB]⟩,
    ⟨0x4448F800, [(.fcsr, 0x00800003)], [.reg (.x 8) 0x00800003]⟩,
    ⟨0x44480000, [(.x 8, 0xDEADBEEF), (.fcsr, 0x00800003)], []⟩,
    ⟨0x44C80000, [(.x 8, 0xFE800000)], [.reg .fcsr 0xFE800000]⟩,
    ⟨0x44C8F800, [(.x 8, 0xFE800000)], []⟩,
    ⟨0x46020800, [(.fw 1, 0x3FC00000), (.fw 2, 0x40100000)], [.reg (.fw 0) 0x40700000]⟩,
    ⟨0x46020800, [(.fw 1, 0x7F7FFFFF), (.fw 2, 0x7F7FFFFF)], [.reg (.fw 0) 0x7F800000]⟩,
    ⟨0x46020801, [(.fw 0, 0xDEADBEEF), (.fw 1, 0x3F800000), (.fw 2, 0x3F800000)], [.reg (.fw 0) 0x00000000]⟩,
    ⟨0x46020802, [(.fw 1, 0xC0000000), (.fw 2, 0x40400000)], [.reg (.fw 0) 0xC0C00000]⟩] ++
  [
    ⟨0x46020803, [(.fw 1, 0x3F800000), (.fw 2, 0x40400000)], [.reg (.fw 0) 0x3EAAAAAB]⟩,
    ⟨0x46020803, [(.fw 1, 0x3F800000), (.fw 2, 0x80000000)], [.reg (.fw 0) 0xFF800000]⟩,
    ⟨0x46000804, [(.fw 1, 0x40000000)], [.reg (.fw 0) 0x3FB504F3]⟩,
    ⟨0x46000804, [(.fw 1, 0x80000000)], [.reg (.fw 0) 0x80000000]⟩,
    ⟨0x46000805, [(.fw 1, 0xFFC00001)], [.reg (.fw 0) 0x7FC00001]⟩,
    ⟨0x46000806, [(.fw 1, 0x7FC00001)], [.reg (.fw 0) 0x7FC00001]⟩,
    ⟨0x46000807, [(.fw 1, 0x00000000)], [.reg (.fw 0) 0x80000000]⟩,
    ⟨0x46241000, [(.fw 3, 0x3FF00000), (.fw 5, 0x40000000)], [.reg (.fw 1) 0x40080000]⟩,
    ⟨0x46241001, [(.fw 3, 0x3FF00000), (.fw 5, 0x40000000)], [.reg (.fw 1) 0xBFF00000]⟩,
    ⟨0x46241002, [(.fw 3, 0x3FF80000), (.fw 5, 0x40000000)], [.reg (.fw 1) 0x40080000]⟩] ++
  [
    ⟨0x46241003, [(.fw 3, 0x3FF00000), (.fw 5, 0x40080000)], [.reg (.fw 0) 0x55555555, .reg (.fw 1) 0x3FD55555]⟩,
    ⟨0x46201004, [(.fw 3, 0x40000000)], [.reg (.fw 0) 0x667F3BCD, .reg (.fw 1) 0x3FF6A09E]⟩,
    ⟨0x46201005, [(.fw 3, 0xBFF00000)], [.reg (.fw 1) 0x3FF00000]⟩,
    ⟨0x46201006, [(.fw 2, 0x00000001), (.fw 3, 0x00000002)], [.reg (.fw 0) 0x00000001, .reg (.fw 1) 0x00000002]⟩,
    ⟨0x46201007, [(.fw 3, 0x40080000)], [.reg (.fw 1) 0xC0080000]⟩,
    ⟨0x46251840, [(.fw 3, 0x3FF00000), (.fw 5, 0x40000000)], [.reg (.fw 1) 0x40080000]⟩,
    ⟨0x46000821, [(.fw 1, 0x3F800000)], [.reg (.fw 1) 0x3FF00000]⟩,
    ⟨0x46000824, [(.fw 1, 0xC1200000)], [.reg (.fw 0) 0xFFFFFFF6]⟩,
    ⟨0x46000825, [(.fw 1, 0xC0400000)], [.reg (.fw 0) 0xFFFFFFFD, .reg (.fw 1) 0xFFFFFFFF]⟩,
    ⟨0x46201020, [(.fw 2, 0x9999999A), (.fw 3, 0x3FB99999)], [.reg (.fw 0) 0x3DCCCCCD]⟩] ++
  [
    ⟨0x46201024, [(.fw 3, 0x40240000)], [.reg (.fw 0) 0x0000000A]⟩,
    ⟨0x46201025, [(.fw 3, 0xC3E00000)], [.reg (.fw 1) 0x80000000]⟩,
    ⟨0x46800820, [(.fw 1, 0x01000001)], [.reg (.fw 0) 0x4B800000]⟩,
    ⟨0x46800821, [(.fw 1, 0xFFFFFFFF)], [.reg (.fw 1) 0xBFF00000]⟩,
    ⟨0x46A01020, [(.fw 2, 0x01000003)], [.reg (.fw 0) 0x4B800002]⟩,
    ⟨0x46A01021, [(.fw 2, 0x00000001), (.fw 3, 0x00200000)], [.reg (.fw 1) 0x43400000]⟩,
    ⟨0x4601003C, [(.fw 0, 0x3F800000), (.fw 1, 0x40000000)], [.reg .fcsr 0x00800000]⟩,
    ⟨0x4601003C, [(.fw 0, 0x40000000), (.fw 1, 0x40000000), (.fcsr, 0x00800000)], [.reg .fcsr 0x00000000]⟩,
    ⟨0x46010332, [(.fw 0, 0x80000000), (.fw 1, 0x00000000)], [.reg .fcsr 0x08000000]⟩,
    ⟨0x46010031, [(.fw 0, 0x7FC00000), (.fw 1, 0x3F800000)], [.reg .fcsr 0x00800000]⟩] ++
  [
    ⟨0x46010035, [(.fw 0, 0x7FC00000), (.fw 1, 0x3F800000)], [.reg .fcsr 0x00800000]⟩,
    ⟨0x46010030, [(.fw 0, 0x7FC00000), (.fcsr, 0x00800000)], [.reg .fcsr 0x00000000]⟩,
    ⟨0x46010039, [(.fw 0, 0x7FC00000)], [.reg .fcsr 0x00800000]⟩,
    ⟨0x4624113E, [(.fw 3, 0xFFF00000), (.fw 5, 0xFFF00000)], [.reg .fcsr 0x02000000]⟩,
    ⟨0x46241232, [(.fw 3, 0x7FF80000), (.fcsr, 0xFFFFFFFF)], [.reg .fcsr 0xFBFFFFFF]⟩]

theorem test_float_vectors : floatVectors.all Vec.ok = true := by decide +kernel

/-- 95 section 2.6. -/
def systemVectors : List Vec :=
  [
    ⟨0x00000000, [], []⟩,
    ⟨0x0000000C, [(.x 2, 0x00000FA1), (.x 4, 0x00000003)], [.ended (.exited 3)]⟩,
    ⟨0x0007000D, [], [.fault (.breakpoint 0x00400000 7168)]⟩,
    ⟨0x0000000F, [], [.fault (.unimplemented 0x00400000 .generic "sync")]⟩,
    ⟨0x01090030, [(.x 8, 0x00000000), (.x 9, 0xFFFFFFFF)], [.fault (.trap 0x00400000 "tge")]⟩,
    ⟨0x01090031, [(.x 8, 0x00000000), (.x 9, 0xFFFFFFFF)], []⟩,
    ⟨0x01090032, [(.x 8, 0xFFFFFFFF), (.x 9, 0x00000000)], [.fault (.trap 0x00400000 "tlt")]⟩,
    ⟨0x01090033, [(.x 8, 0xFFFFFFFF), (.x 9, 0x00000000)], []⟩,
    ⟨0x01090034, [(.x 8, 0x00000005), (.x 9, 0x00000005)], [.fault (.trap 0x00400000 "teq")]⟩,
    ⟨0x01090036, [(.x 8, 0x00000005), (.x 9, 0x00000005)], []⟩] ++
  [
    ⟨0x0508FFFF, [(.x 8, 0x00000000)], [.fault (.trap 0x00400000 "tgei")]⟩,
    ⟨0x0509FFFF, [(.x 8, 0xFFFFFFFE)], []⟩,
    ⟨0x050A0000, [(.x 8, 0x80000000)], [.fault (.trap 0x00400000 "tlti")]⟩,
    ⟨0x050BFFFF, [(.x 8, 0x7FFFFFFF)], [.fault (.trap 0x00400000 "tltiu")]⟩,
    ⟨0x050CFFFF, [(.x 8, 0xFFFFFFFF)], [.fault (.trap 0x00400000 "teqi")]⟩,
    ⟨0x050E0000, [(.x 8, 0x00000000)], []⟩,
    ⟨0xFC000000, [], [.fault (.unknownInstruction 0x00400000 0xFC000000)]⟩,
    ⟨0x03E00808, [], [.fault (.unknownInstruction 0x00400000 0x03E00808)]⟩,
    ⟨0x42000018, [], [.fault (.unimplemented 0x00400000 .cp0 "eret")]⟩,
    ⟨0x71095002, [(.x 8, 0x00000002), (.x 9, 0x00000003)], [.fault (.unimplemented 0x00400000 .generic "mul")]⟩] ++
  [
    ⟨0x51090002, [], [.fault (.unimplemented 0x00400000 .generic "beql")]⟩,
    ⟨0x2C00ABC2, [], [.fault (.unimplemented 0x00400000 .generic "Pass")]⟩,
    ⟨0x2C00ABC1, [], [.fault (.unimplemented 0x00400000 .generic "Fail")]⟩]

theorem test_system_vectors : systemVectors.all Vec.ok = true := by decide +kernel

/-! ## Parameters away from their defaults -/

/-- `start` under other parameters. -/
def startWith (p : Config.Params) (regs : List (RegName × Word)) : State := { start regs with params := p }

/-- Every parameter at its other setting (R16). -/
def otherParams : Config.Params :=
  { sltiuImm := .sext, divZero := .draw, divOvf := .mips, cp1ctlUngated := .fault, jalrRdEqRs := .readFirst,
    linkRs31 := .readFirst, trapMode := .unimplemented, syncMode := .noop,
    fpArith := [(⟨.addS, 0x3F800000, 0x40000000⟩, 0xFFFFFFFF40400001)], fpNan := [(⟨.addS, 0x7FC00000, 0⟩, 0x7F800001)],
    fpToInt := [(⟨.cvtWS, 0x3FC00000, 0⟩, 0xFFFFFFFE)] }

/-- The state an instruction leaves, or the state itself where it leaves none. -/
def after (i : Instr) (s : State) : State :=
  match exec i s with
  | .next t => t
  | .fault _ => s
  | .refused _ => s

/-- 95, note under 2.2: with `DIV_OVF = mips`, IV27 gives `lo = 0x80000000` and `hi = 0`. -/
theorem test_div_overflow_mips :
    let t := after (.div 8 9) (startWith otherParams [(.x 8, 0x80000000), (.x 9, 0xFFFFFFFF), (.hi, 5)])
    (t.live.lo == 0x80000000 && t.live.hi == 0 && t.faultRecord.isNone) = true := by decide +kernel

/-- R158 under `DIV_ZERO = draw`: two free words, no fault. -/
theorem test_div_zero_draw :
    (after (.div 8 9) (startWith otherParams [(.x 8, 7)])).draws = 2 := by decide +kernel

/-- 95 E4: under `SLTIU_IMM = sext` the comparison is against 0xFFFF8000. -/
theorem test_sltiu_sext :
    (after (.sltiu 9 8 0x8000) (startWith otherParams [(.x 8, 0x7FFF)])).reg 9 = 1 := by decide +kernel

/-- 95, note under 2.3: under `LINK_RS31 = read_first` BV15 is taken and links. -/
theorem test_bltzal_read_first :
    let t := after (.bltzal 31 2) (startWith otherParams [(.x 31, 0xFFFFFFFF)])
    (t.reg 31 == 0x00400008 && t.live.nnpc == 0x0040000C) = true := by decide +kernel

/-- 95, note under 2.3: under `JALR_RD_EQ_RS = read_first` BV27 jumps to 0x00401000 and links into `x[25]`. -/
theorem test_jalr_read_first :
    let t := after (.jalr 25 25) (startWith otherParams [(.x 25, 0x00401000)])
    (t.reg 25 == 0x00400008 && t.live.nnpc == 0x00401000) = true := by decide +kernel

/-- 95, note under 2.5: under `CP1CTL_UNGATED = fault` FV6 raises CP1_CONTROL_UNGATED. -/
theorem test_ctc1_ungated_fault :
    (after (.ctc1 8 31) (startWith otherParams [])).faultRecord = some (.cp1ControlUngated 0x00400000 "ctc1") := by
  decide +kernel

/-- R281 to R283: results that FP_ARITH, FP_NAN and FP_TO_INT give: of 1 + 2, of a NaN plus 0, and of 1.5 as a word. -/
theorem test_float_tables :
    let s := startWith otherParams [(.fw 0, 0x3F800000), (.fw 1, 0x40000000), (.fw 2, 0x7FC00000), (.fw 4, 0x3FC00000)]
    ((after (.addS 5 0 1) s).fw 5 == 0x40400001 && (after (.addS 5 1 0) s).fw 5 == 0x40400000 &&
      (after (.addS 5 2 3) s).fw 5 == 0x7F800001 && (after (.cvtWS 5 4) s).fw 5 == 0xFFFFFFFE) = true := by decide +kernel

/-- 95, note under 2.6: with `SYNC_MODE = noop` SV4 changes nothing. -/
theorem test_sync_noop : after (.sync 0) (startWith otherParams []) = startWith otherParams [] := by decide +kernel

/-- 95, note under 2.6: with `TRAP_MODE = unimplemented` a trap raises UNIMPLEMENTED whatever its condition. -/
theorem test_trap_unimplemented :
    (after (.tne 8 9 0) (startWith otherParams [])).faultRecord = some (.unimplemented 0x00400000 .generic "tne") := by
  decide +kernel

/-! ## The host (R341) -/

/-- `write` to stream 1 of the three bytes at 0x1003. -/
theorem test_syscall_write :
    let t := after (.syscall 7) (start [(.x 2, 4004), (.x 4, 1), (.x 5, 0x1003), (.x 6, 3)])
    (t.hostOut1 == [0x7F, 0x11, 0x22] && t.reg 2 == 3 && t.reg 7 == 0 && t.hostOut2 == []) = true := by decide +kernel

/-- `write` to another stream answers error 9. -/
theorem test_syscall_write_badStream :
    let t := after (.syscall 0) (start [(.x 2, 4004), (.x 4, 3), (.x 5, 0x1003), (.x 6, 3)])
    (t.reg 2 == 9 && t.reg 7 == 1 && t.hostOut1 == [] && t.hostOut2 == []) = true := by decide +kernel

/-- Any other number is refused by the host. -/
theorem test_syscall_other :
    (after (.syscall 0) (start [(.x 2, 4003)])).runEnd = some (.hostRefused 4003) := by decide +kernel

/-- R341, D25: a `Continue` that writes a register and a byte, and is used up; one whose access is misaligned. -/
theorem test_syscall_answered :
    let s := { start [(.x 2, 4003)] with hostAnswers := [.proceed ⟨[(0x1000, 4)], [(.x 2, 8)], [(0x1000, 9)], [], [], none⟩] }
    let t := after (.syscall 0) s
    let u := after (.syscall 0) { s with hostAnswers := [.proceed ⟨[(0x1002, 4)], [(.x 2, 8)], [], [], [], none⟩] }
    (t.reg 2 == 8 && t.mem.byteAt 0x1000 == 9 && t.hostAnswers == [] && t.runEnd.isNone && u.reg 2 == 4003 &&
      u.faultRecord == some (.dataMisaligned 0x00400000 0x1002)) = true := by decide +kernel

/-! ## State (R30 to R40) -/

/-- 95 E6: the double 1.0 written to field 4, then the single 2.0 to field 5. -/
theorem test_float_aliasing :
    let s := (start []).setFl 4 0x3FF0000000000000
    let t := s.setFw 5 0x40000000
    (s.fw 4 == 0 && s.fw 5 == 0x3FF00000 && s.fl 5 == 0x3FF0000000000000 && t.fl 4 == 0x4000000000000000) = true := by
  decide +kernel

/-- 95 E7: entering speculative mode twice keeps the first snapshot, leaving it restores that one. -/
theorem test_speculation_nested :
    let s := start [(.x 8, 5)]
    let t := (((s.setSpeculative true).setReg 8 6).setSpeculative true).setReg 8 7
    (t.reg 8 == 7 && (t.setSpeculative false).live == s.live &&
      (t.setSpeculative false).setSpeculative false == t.setSpeculative false) = true := by decide +kernel

/-- An address 0x00400002 is no fetch address, and 0x00500000 is not mapped (R66). -/
theorem test_fetch_faults :
    ((start []).fetchFault 0x00400002 == some (.fetchMisaligned 0x00400002) &&
      (start []).fetchFault 0x00500000 == some (.fetchUnmapped 0x00500000)) = true := by decide +kernel

/-- Writing what an unlisted address reads as removes the entry. -/
theorem test_memory_canonical : ((Memory.write [(4, 9)] 4 0) = []) ∧ Memory.write [(4, 9)] 2 1 = [(2, 1), (4, 9)] := by
  decide

/-! ## The step (R28) -/

/-- The state a step leaves, or the state itself where it leaves none. -/
def stepped (s : State) : State :=
  match step s with
  | .next t => t
  | .fault _ => s
  | .refused _ => s

/-- 95 E9: `addiu $t0, $zero, 5` as the first instruction after reset; the counters advance. -/
theorem test_step_from_reset :
    let t := stepped (State.reset.withFetchWord 32 0x24080005)
    (t.reg 8 == 5 && t.live.pc == 0x00400004 && t.live.npc == 0x00400008 && t.live.nnpc == 0x0040000C) = true := by
  decide +kernel

/-- A fault leaves the counters; the step after it answers the fault (R370, R376). -/
theorem test_step_after_fault :
    let t := stepped (State.reset.withFetchWord 32 0x0007000D)
    (t.live.pc == 0x00400000 && (match step t with
      | .fault f => f == .breakpoint 0x00400000 7168
      | .next _ => false
      | .refused _ => false)) = true := by decide +kernel

/-- R42: a word changed after its decode was cached runs as it was. -/
theorem test_step_stale_decode :
    let s := stepped (State.reset.withFetchWord 32 0x24080001)
    let t := stepped { s with mem := s.mem.setWord 0x00400000 0x24080002, live := State.reset.live }
    t.reg 8 = 1 := by decide +kernel

/-- R384: the schedule names the thread that steps; the other waits. -/
theorem test_step_schedule :
    let s := { State.reset.withFetchWord 32 0x24080005 with
      others := [⟨1, 0, Regs.atEntry 0x00400000, false, Regs.zero, none⟩], schedule := [.run 1] }
    let t := stepped s
    (t.tid == 1 && t.reg 8 == 5 && t.others == [s.currentThread]) = true := by decide +kernel

/-- R68, D39: thread 1 stores a byte between the two accesses of thread 0's `swr` at the word's last byte, and the byte is
lost: `swr` writes back the word it read. -/
theorem test_split_swr_loses_a_byte :
    let s := start [(.x 8, 0x1003), (.x 9, 0x55)]
    let swr : StaticInst := ⟨0xB9090000, decodeWord 0xB9090000⟩
    let sb : StaticInst := ⟨0xA1090000, decodeWord 0xA1090000⟩
    let waiting := ((Regs.atEntry 0x00400004).setNamed (.x 8) 0x1001).setNamed (.x 9) 0x66
    let run (e : List Event) := stepped { (s.cacheInsert ⟨0, 0x400000, swr⟩).cacheInsert ⟨0, 0x400004, sb⟩ with
      others := [⟨1, 0, waiting, false, Regs.zero, none⟩], schedule := e }
    let split := stepped (stepped (run [.runToStore 0, .run 1, .run 0]))
    let whole := stepped (run [.run 0, .run 1])
    (split.mem.wordAt 0x1000 == 0x55FF8000 && whole.mem.wordAt 0x1000 == 0x55FF6600 && split.live.pc == 0x00400004) = true := by
  decide +kernel

/-- R390, R391: a run whose last step ends it is not answered `running`. -/
theorem test_runFor_ends :
    (runFor 1 (State.reset.withFetchWord 32 0x0007000D)).1 = .faulted (.breakpoint 0x00400000 7168) := by decide +kernel

/-- R8, R373: a `decode` of an address that is not the pc fills its cache entry, and the counters stay. -/
theorem test_decode_event :
    let s := { State.reset.withFetchWord 32 0x24080005 with live := Regs.atEntry 0, schedule := [.decode 0 0x00400000] }
    let t := stepped s
    (t.cacheLookup 0x00400000 == some (decodeStatic 0x24080005) && t.live == s.live) = true := by decide +kernel

/-! ## Decode-time outputs (R91, R125 to R135) -/

/-- 95 E1. -/
theorem test_fields :
    (extractField 0x8D090004 fOpcode == 0x23 && extractField 0x8D090004 fRs == 8 && extractField 0x8D090004 fRt == 9 &&
      extractField 0x8D090004 fIntimm == 4 && extractField 0x0109502A fRd == 10 && extractField 0x0109502A fFunc == 0x2A &&
      extractField 0xFFFFFFFF fIntimm == 0xFFFF) = true := by decide +kernel

/-- R131: a shift, a load with a negative offset, a likely branch, a compare. -/
theorem test_disassembly_forms :
    ((disassemble 0 (decodeStatic 0x00084080)) == "0x00000000 : 0x00084080 sll $t0, $t0, 2") = true ∧
    ((disassemble 0 (decodeStatic 0x8D09FFFC)) == "0x00000000 : 0x8d09fffc lw $t1, -4($t0)") = true ∧
    ((disassemble 0 (decodeStatic 0x45030002)) == "0x00000000 : 0x45030002 bc1tl $fcc0, 0x0000000c") = true ∧
    ((disassemble 0 (decodeStatic 0x4601003C)) == "0x00000000 : 0x4601003c c.lt.s $fcc0, $f0, $f1") = true := by
  decide +kernel

/-- R135: `li` of a small, an unsigned 16-bit and a wide value. -/
theorem test_pseudo_li :
    Pseudo.expand 0 (.li 8 0xFFFFFFFF) = [.addiu 8 0 0xFFFF] ∧ Pseudo.expand 0 (.li 8 0x8000) = [.ori 8 0 0x8000] ∧
    Pseudo.expand 0 (.li 8 0x12345678) = [.lui 8 0x1234, .ori 8 8 0x5678] := by decide +kernel

/-- R134: `bne`'s offset in 95 P6. -/
theorem test_offsetTo : offsetTo 0x0040001C 0x0040000C = 0xFFFB := by decide +kernel

/-! ## Witnesses: states and operands that meet the hypotheses of each statement, clause by clause -/

theorem witness_RoundTrip : (Instr.sltiu 0 0 0xabc3).wellFormed = true ∧ (Instr.bgezal 1 3).wellFormed = true := by
  decide

theorem witness_DecodedWordsReencode :
    decodeWord 0x01095020 = .instr (.add 10 8 9) ∧ markerGroupOf (.add 10 8 9) = none := by decide +kernel

/-- A word for each clause, at the edge of its range. -/
theorem witness_NonzeroReservedFieldIsUnknown :
    (Field.opcode 0x00200000 = 0 ∧ Field.func 0x00200000 = 0 ∧ Field.rs 0x00200000 ≠ 0) ∧
    (Field.func 0x00400002 = 2 ∧ Field.rs 0x00400002 ≠ 0 ∧ Field.rs 0x00400002 ≠ 1) ∧
    (Field.func 0x00000047 = 7 ∧ Field.sa 0x00000047 ≠ 0) ∧
    (Field.func 0x00000086 = 6 ∧ Field.sa 0x00000086 ≠ 0 ∧ Field.sa 0x00000086 ≠ 1) ∧
    (Field.func 0x03E00808 = 8 ∧ (0x03E00808 : Word).getLsbD 10 = false ∧ Field.rd 0x03E00808 ≠ 0) ∧
    (Field.func 0x0001F809 = 9 ∧ (0x0001F809 : Word).getLsbD 10 = false ∧ Field.rt 0x0001F809 ≠ 0) ∧
    (Field.func 0x0000080F = 15 ∧ Field.rd 0x0000080F ≠ 0) ∧ (Field.func 0x00200010 = 16 ∧ Field.rs 0x00200010 ≠ 0) ∧
    (Field.func 0x00000853 = 19 ∧ Field.rd 0x00000853 ≠ 0) ∧
    (Field.func 0x0000081B = 27 ∧ Field.rd 0x0000081B ≠ 0) ∧ (Field.func 0x0000006B = 43 ∧ Field.sa 0x0000006B ≠ 0) ∧
    (Field.opcode 0x1C010000 = 7 ∧ Field.rt 0x1C010000 ≠ 0) ∧ (Field.opcode 0x3C200000 = 15 ∧ Field.rs 0x3C200000 ≠ 0) ∧
    (Field.opcode 0x44C00001 = 17 ∧ Field.rs 0x44C00001 = 6 ∧ (0x44C00001 : Word).extractLsb' 0 11 ≠ 0) ∧
    (Field.rs 0x46210007 = 17 ∧ Field.func 0x46210007 = 7 ∧ Field.rt 0x46210007 ≠ 0) ∧
    (Field.rs 0x46A10021 = 21 ∧ Field.func 0x46A10021 = 33 ∧ Field.rt 0x46A10021 ≠ 0) ∧
    (Field.rs 0x460000BF = 16 ∧ 48 ≤ (Field.func 0x460000BF).toNat ∧ (0x460000BF : Word).extractLsb' 6 2 ≠ 0) := by
  decide +kernel

/-- A launch that sets one register twice and others once, a thread that waits, an image whose last byte stands at the top of
memory. -/
def wLaunch : Launch :=
  { mapped := [⟨0, 2 ^ 32⟩], image := [(0, 1), (0, 3), (2 ^ 32 - 1, 2)]
    first := ⟨0, 0, 0x400000, [(.x 8, 1), (.x 0, 7), (.fw 31, 4), (.fcsr, 5), (.x 8, 6), (.lo, 2)]⟩
    rest := [⟨1, 0, 0x400100, [(.hi, 1), (.ea, 3)]⟩], haltPc := none, schedule := [], hostAnswers := []
    params := .default }

theorem witness_LaunchState :
    LastGiven wLaunch.first.regs (.x 8) 6 ∧ LastGiven wLaunch.first.regs (.x 0) 7 ∧ LastGiven wLaunch.first.regs (.fw 31) 4 ∧
    LastGiven wLaunch.first.regs .fcsr 5 ∧ LastGiven wLaunch.first.regs .lo 2 ∧ NotGiven wLaunch.first.regs (.x 31) ∧
    (∃ t ∈ wLaunch.rest, LastGiven t.regs .hi 1 ∧ NotGiven t.regs .lo) ∧
    LastGiven wLaunch.image (0 : Word).toNat 3 ∧ LastGiven wLaunch.image (0xFFFFFFFF : Word).toNat 2 ∧
    NotGiven wLaunch.image (1 : Word).toNat :=
  ⟨⟨[(.x 8, 1), (.x 0, 7), (.fw 31, 4), (.fcsr, 5)], [(.lo, 2)], by decide, by decide⟩,
    ⟨[(.x 8, 1)], [(.fw 31, 4), (.fcsr, 5), (.x 8, 6), (.lo, 2)], by decide, by decide⟩,
    ⟨[(.x 8, 1), (.x 0, 7)], [(.fcsr, 5), (.x 8, 6), (.lo, 2)], by decide, by decide⟩,
    ⟨[(.x 8, 1), (.x 0, 7), (.fw 31, 4)], [(.x 8, 6), (.lo, 2)], by decide, by decide⟩,
    ⟨[(.x 8, 1), (.x 0, 7), (.fw 31, 4), (.fcsr, 5), (.x 8, 6)], [], by decide, by decide⟩,
    by unfold NotGiven; decide, ⟨_, List.mem_singleton.mpr rfl, ⟨[], [(.ea, 3)], by decide, by decide⟩, by unfold NotGiven; decide⟩,
    ⟨[(0, 1)], [(2 ^ 32 - 1, 2)], by decide, by decide⟩, ⟨[(0, 1), (0, 3)], [], by decide, by decide⟩,
    by unfold NotGiven; decide⟩

/-- Fields of one pair, fields of different pairs, an odd and an even field. -/
theorem witness_FloatViewsAlias :
    (30 : Reg).toNat / 2 = (31 : Reg).toNat / 2 ∧ (30 : Reg).toNat / 2 ≠ (29 : Reg).toNat / 2 ∧ (31 : Reg).toNat % 2 = 1 ∧
    (0 : Reg).toNat % 2 = 0 := by decide

/-- The first byte past each access, across the top of memory. -/
theorem witness_MemoryIsLittleEndian :
    2 ≤ ((1 : Word) - 0xFFFFFFFF).toNat ∧ 4 ≤ ((3 : Word) - 0xFFFFFFFF).toNat ∧ 8 ≤ ((7 : Word) - 0xFFFFFFFF).toNat ∧
    Memory.wf [(0, 1), (2 ^ 32 - 1, 2)] = true := by decide

/-- The state of the vectors: mapped at 0x1000 to 0x3FFF and 0x400000 to 0x40FFFF. -/
def w0 : State := start []

theorem mappedBytes_iff {s : State} {a : Word} {n : Nat} : s.rangeMapped a n = true ↔ s.mappedBytes a n := by
  simp [State.rangeMapped, State.mappedBytes]

/-- Misaligned, unmapped from the first byte past the end, accessible up to the end. -/
theorem witness_AccessChecks :
    (0x1001 : Word).toNat % 2 ≠ 0 ∧ (0x4000 : Word).toNat % 8 = 0 ∧ ¬w0.mappedBytes 0x4000 8 ∧ w0.accessible 0x3FF8 8 ∧
    w0.accessible 0x3FFC 4 ∧ w0.accessible 0x3FFE 2 ∧ w0.accessible 0x3FFF 1 ∧ ¬w0.mappedBytes 0x3FFF 4 := by
  unfold State.accessible
  simp only [← mappedBytes_iff]
  decide +kernel

/-- The word `w` at the entry, nothing cached. -/
def wAt (w : Word) (regs : List (RegName × Word)) : State := (start regs).withFetchWord 32 w.toNat

/-- The same with its decode cached. -/
def wCached (w : Word) (regs : List (RegName × Word)) : State :=
  (start regs).cacheInsert ⟨0, 0x400000, decodeStatic w⟩

/-- A hit, a miss, a misaligned address, none of them the pc; another core. -/
theorem witness_DecodeUsesTheCache :
    (wCached 0x24080005 []).cacheLookup 0x400000 = some (decodeStatic 0x24080005) ∧
    (w0.cacheLookup 0x400004 = none ∧ w0.fetchFault 0x400004 = none ∧ w0.live.pc ≠ 0x400004) ∧
    (w0.cacheLookup 2 = none ∧ w0.fetchFault 2 = some (.fetchMisaligned 2)) ∧ 1 ≠ w0.core := by decide +kernel

/-- A step answers a next state. -/
def stepsOn (s : State) : Bool :=
  match step s with
  | .next _ => true
  | .fault _ => false
  | .refused _ => false

theorem stepsOn_iff {s : State} : stepsOn s = true → ∃ t, step s = .next t := by
  unfold stepsOn
  cases h : step s <;> simp

theorem witness_DecodeCacheIsNeverInvalidated :
    (∃ t, step (wCached 0x24080005 []) = .next t) ∧
    (wCached 0x24080005 []).cacheLookup 0x400000 = some (decodeStatic 0x24080005) :=
  ⟨stepsOn_iff (by decide +kernel), by decide +kernel⟩

theorem witness_ImmediateResults :
    w0.params.sltiuImm = .zext ∧ (startWith otherParams []).params.sltiuImm = .sext := by decide

/-- A dividend at the edge of the overflow corner and a divisor that is not 0. -/
theorem witness_DivideResults :
    let s := start [(.x 8, 0x80000000), (.x 9, 0xFFFFFFFE)]
    s.reg 9 ≠ 0 ∧ ¬(s.reg 8 = 0x80000000#32 ∧ s.reg 9 = 0xFFFFFFFF#32) := by decide +kernel

theorem witness_DivideCorners :
    (w0.faultRecord = none ∧ w0.reg 9 = 0 ∧ w0.params.divZero = .fault) ∧
    (startWith otherParams []).params.divZero = .draw ∧
    (∃ s ∈ [start [(.x 8, 0x80000000), (.x 9, 0xFFFFFFFF)]],
      s.reg 8 = 0x80000000#32 ∧ s.reg 9 = 0xFFFFFFFF#32 ∧ s.params.divOvf = .fault) ∧
    (startWith otherParams []).params.divOvf = .mips := by decide +kernel

theorem witness_LinkingBranches :
    ((30 : Reg) ≠ 31) ∧ (startWith otherParams []).params.linkRs31 = .readFirst ∧ w0.faultRecord = none ∧
    w0.params.linkRs31 = .fault := by decide

theorem witness_Jumps :
    ((30 : Reg) ≠ 31) ∧ (startWith otherParams []).params.jalrRdEqRs = .readFirst ∧ w0.params.jalrRdEqRs = .fault := by
  decide

/-- Condition bits 0 and 7, clear and set. -/
theorem witness_ConditionBitBranches :
    let s := start [(.fcsr, 0x80000000)]
    let bit (cc : BitVec 3) : Bool := s.live.fcsr.getLsbD (fccBit cc)
    bit 7 = true ∧ bit 0 = false := by decide +kernel

/-- Aligned addresses whose last byte is the last mapped one. -/
theorem witness_loads_and_stores :
    let s := start [(.x 8, 0x3FF0)]
    s.accessible (s.effAddr 8 15) 1 ∧ s.accessible (s.effAddr 8 14) 2 ∧ s.accessible (s.effAddr 8 12) 4 ∧
    s.accessible (s.effAddr 8 8) 8 := by
  unfold State.accessible
  simp only [← mappedBytes_iff]
  decide +kernel

/-- Offsets 0 and 3 into the last mapped word. -/
theorem witness_PartialLoads_and_Stores :
    let s := start [(.x 8, 0x3FFC)]
    s.mappedBytes (alignWord (s.effAddr 8 0)) 4 ∧ s.mappedBytes (alignWord (s.effAddr 8 3)) 4 := by
  simp only [← mappedBytes_iff]
  decide +kernel

/-- A misaligned and an unmapped access. -/
theorem witness_AccessesWriteEa :
    let s := start [(.x 8, 0x3FFE)]
    s.faultRecord = none ∧ s.accessOf (.lw 9 8 0) = some (0x3FFE, 4) ∧
    s.accessFault 0x3FFE 4 = some (.dataMisaligned 0x400000 0x3FFE) ∧ s.accessOf (.swr 9 8 2) = some (0x4000, 4) ∧
    s.accessFault 0x4000 4 = some (.dataUnmapped 0x400000 0x4000) := by decide +kernel

/-- A pair over two words, with the largest offset, and with `rt` the base. -/
theorem witness_PartialWordPairsCompose :
    let s := start [(.x 8, 0x1001 - 0x7FFC)]
    (0x7FFC : BitVec 16).toInt + 3 < 2 ^ 15 ∧ s.mappedBytes (s.effAddr 8 0x7FFC) 4 ∧
    s.mappedBytes (alignWord (s.effAddr 8 0x7FFC)) 4 ∧ s.mappedBytes (alignWord (s.effAddr 8 0x7FFC + 3)) 4 ∧
    (9 : Reg) ≠ 8 := by
  simp only [← mappedBytes_iff]
  decide +kernel

theorem witness_ControlMoves :
    (w0.params.cp1ctlUngated = .noop ∧ (30 : Reg) ≠ 31 ∧ (1 : Reg) ≠ 0) ∧
    ((startWith otherParams []).params.cp1ctlUngated = .fault ∧ (startWith otherParams []).faultRecord = none) := by
  decide

/-- The value of an encoding whose magnitude is `m * 2 ^ e`. -/
theorem value_of_unpack {f : FloatFmt} {bits : Nat} {neg : Bool} {m : Nat} {e : Int}
    (h : f.unpack bits = .fin neg m e) :
    f.value bits = some ((if neg then -1 else 1) * (m : ℚ) * (2 : ℚ) ^ e) := by
  simp [FloatFmt.value, FloatVal.rat?, h]

/-- 1.5 and 2.25 in both formats; a number below the overflow of both, and one past the single's. -/
theorem witness_ArithmeticRoundsToNearest :
    w0.params.fpArith = [] ∧
    FloatFmt.single.value 0x3FC00000 = some (3 / 2) ∧ FloatFmt.single.value 0x40100000 = some (9 / 4) ∧
    FloatFmt.double.value 0x3FF8000000000000 = some (3 / 2) ∧ FloatFmt.double.value 0x4002000000000000 = some (9 / 4) ∧
    (∀ x ∈ [(3 / 2 + 9 / 4 : ℚ), 3 / 2 - 9 / 4, 3 / 2 * (9 / 4), 3 / 2 / (9 / 4)],
      x ≠ 0 ∧ |x| < FloatFmt.single.overflowAt) ∧
    FloatFmt.single.value 0x7F7FFFFF = some ((2 ^ 24 - 1) * 2 ^ 104) ∧
    FloatFmt.single.overflowAt ≤ |((2 ^ 24 - 1) * 2 ^ 104 + (2 ^ 24 - 1) * 2 ^ 104 : ℚ)| := by
  have hs : FloatFmt.single.overflowAt = (2 ^ 24 - 1 / 2) * 2 ^ 104 := by
    norm_num [FloatFmt.overflowAt, FloatFmt.single, FloatFmt.minQuantum, FloatFmt.maxExp]
  refine ⟨by decide, ?_, ?_, ?_, ?_, ?_, ?_, ?_⟩
  · rw [value_of_unpack (show _ = FloatVal.fin false 0xC00000 (-23) by decide +kernel)]; norm_num
  · rw [value_of_unpack (show _ = FloatVal.fin false 0x900000 (-22) by decide +kernel)]; norm_num
  · rw [value_of_unpack (show _ = FloatVal.fin false 0x18000000000000 (-52) by decide +kernel)]; norm_num
  · rw [value_of_unpack (show _ = FloatVal.fin false 0x12000000000000 (-51) by decide +kernel)]; norm_num
  · intro x hx
    fin_cases hx <;> exact ⟨by norm_num, by rw [hs]; norm_num [abs_of_pos, abs_of_neg]⟩
  · rw [value_of_unpack (show _ = FloatVal.fin false 0xFFFFFF 104 by decide +kernel)]; norm_num
  · rw [hs, abs_of_pos (by norm_num)]; norm_num

/-- 2 in both formats, and the zeros. -/
theorem witness_SquareRootRoundsToNearest :
    FloatFmt.single.value 0x40000000 = some 2 ∧ FloatFmt.double.value 0x4000000000000000 = some 2 ∧
    FloatFmt.single.value 0x80000000 = some 0 ∧ FloatFmt.double.value 0x8000000000000000 = some 0 := by
  refine ⟨?_, ?_, ?_, ?_⟩
  · rw [value_of_unpack (show _ = FloatVal.fin false 0x800000 (-22) by decide +kernel)]; norm_num
  · rw [value_of_unpack (show _ = FloatVal.fin false 0x10000000000000 (-51) by decide +kernel)]; norm_num
  · rw [value_of_unpack (show _ = FloatVal.fin true 0 (-149) by decide +kernel)]; norm_num
  · rw [value_of_unpack (show _ = FloatVal.fin true 0 (-1074) by decide +kernel)]; norm_num

/-- A NaN and the two infinities of each format; a call that FP_ARITH gives, one that FP_NAN gives. -/
theorem witness_ArithmeticAlwaysCompletes :
    FloatFmt.single.isNaN 0x7F800001 ∧ FloatFmt.double.isNaN 0xFFF8000000000000 ∧
    FloatFmt.single.unpack 0x7F800000 = .inf false ∧ FloatFmt.double.unpack 0xFFF0000000000000 = .inf true ∧
    otherParams.fpArith.lookup ⟨.addS, 0x3F800000, 0x40000000⟩ = some 0xFFFFFFFF40400001 ∧
    ¬FloatFmt.single.isNaN 0x3F800000 ∧ ¬FloatFmt.single.isNaN 0x40000000 ∧
    (∀ n, FloatFmt.single.unpack 0x3F800000 ≠ .inf n) ∧
    otherParams.fpNan.lookup ⟨.addS, 0x7FC00000, 0⟩ = some 0x7F800001 ∧ FloatFmt.single.isNaN 0x7FC00000 := by
  unfold FloatFmt.isNaN
  decide +kernel

/-- In each format an infinity of each sign, 1.5, its negative and the zeros. -/
theorem witness_InfinitiesAndZeros :
    w0.params.fpArith = [] ∧
    (FloatFmt.single.unpack 0x7F800000 = .inf false ∧ FloatFmt.single.unpack 0xFF800000 = .inf true ∧
      (FloatFmt.single.unpack 0x3FC00000).rat? = some (3 / 2) ∧
      (FloatFmt.single.unpack 0xBFC00000).rat? = some (-(3 / 2)) ∧ (FloatFmt.single.unpack 0x80000000).rat? = some 0 ∧
      FloatFmt.single.signed true 0 = 0x80000000) ∧
    (FloatFmt.double.unpack 0x7FF0000000000000 = .inf false ∧ FloatFmt.double.unpack 0xFFF0000000000000 = .inf true ∧
      (FloatFmt.double.unpack 0x3FF8000000000000).rat? = some (3 / 2) ∧
      (FloatFmt.double.unpack 0xBFF8000000000000).rat? = some (-(3 / 2)) ∧
      (FloatFmt.double.unpack 0x8000000000000000).rat? = some 0 ∧
      FloatFmt.double.signed true 0 = 0x8000000000000000) := by
  refine ⟨by decide, ⟨by decide +kernel, by decide +kernel, ?_, ?_, ?_, by decide +kernel⟩,
    by decide +kernel, by decide +kernel, ?_, ?_, ?_, by decide +kernel⟩
  · exact (value_of_unpack (show _ = FloatVal.fin false 0xC00000 (-23) by decide +kernel)).trans (by norm_num)
  · exact (value_of_unpack (show _ = FloatVal.fin true 0xC00000 (-23) by decide +kernel)).trans (by norm_num)
  · exact (value_of_unpack (show _ = FloatVal.fin true 0 (-149) by decide +kernel)).trans (by norm_num)
  · exact (value_of_unpack (show _ = FloatVal.fin false 0x18000000000000 (-52) by decide +kernel)).trans (by norm_num)
  · exact (value_of_unpack (show _ = FloatVal.fin true 0x18000000000000 (-52) by decide +kernel)).trans (by norm_num)
  · exact (value_of_unpack (show _ = FloatVal.fin true 0 (-1074) by decide +kernel)).trans (by norm_num)

/-- A double within the single's range, one past it, an infinity, a negative zero; the most negative word and 0. -/
theorem witness_ConversionsToFloat :
    w0.params.fpArith = [] ∧ FloatFmt.double.value 0x3FF8000000000000 = some (3 / 2) ∧
    FloatFmt.single.value 0xBFC00000 = some (-(3 / 2)) ∧ FloatFmt.double.value 0x47F0000000000000 = some (2 ^ 128) ∧
    FloatFmt.single.overflowAt ≤ |(2 ^ 128 : ℚ)| ∧ FloatFmt.single.unpack 0xFF800000 = .inf true ∧
    FloatFmt.double.unpack 0x7FF0000000000000 = .inf false ∧ FloatFmt.double.signed true 0 = 0x8000000000000000 ∧
    ((0x80000000 : Word).toInt ≠ 0 ∧ (0x8000000000000000 : DWord).toInt ≠ 0) ∧
    ((0 : Word).toInt = 0 ∧ (0 : DWord).toInt = 0) := by
  refine ⟨by decide, ?_, ?_, ?_, ?_, by decide +kernel, by decide +kernel, by decide +kernel, by decide, by decide⟩
  · rw [value_of_unpack (show _ = FloatVal.fin false 0x18000000000000 (-52) by decide +kernel)]; norm_num
  · rw [value_of_unpack (show _ = FloatVal.fin true 0xC00000 (-23) by decide +kernel)]; norm_num
  · rw [value_of_unpack (show _ = FloatVal.fin false 0x10000000000000 76 by decide +kernel)]; norm_num
  · norm_num [FloatFmt.overflowAt, FloatFmt.single, FloatFmt.minQuantum, FloatFmt.maxExp, abs_of_pos]

/-- -2^31 and -2^63, the least integers of the two widths; 1.5, which is no integer, with a result that FP_TO_INT gives. -/
theorem witness_ConversionsToInteger :
    FloatFmt.single.value 0xCF000000 = some ((-2 ^ 31 : Int) : ℚ) ∧
    FloatFmt.double.value 0xC3E0000000000000 = some ((-2 ^ 63 : Int) : ℚ) ∧
    FloatFmt.single.value 0x3FC00000 = some (3 / 2) ∧ (¬∃ k : Int, (3 / 2 : ℚ) = (k : ℚ)) ∧
    otherParams.fpToInt.lookup ⟨.cvtWS, 0x3FC00000, 0⟩ = some 0xFFFFFFFE := by
  refine ⟨?_, ?_, ?_, ?_, by decide⟩
  · rw [value_of_unpack (show _ = FloatVal.fin true 0x800000 8 by decide +kernel)]; norm_num
  · rw [value_of_unpack (show _ = FloatVal.fin true 0x10000000000000 11 by decide +kernel)]; norm_num
  · rw [value_of_unpack (show _ = FloatVal.fin false 0xC00000 (-23) by decide +kernel)]; norm_num
  · rintro ⟨k, h⟩
    have : (3 : ℚ) = ((2 * k : Int) : ℚ) := by push_cast; linarith
    have : (3 : Int) = 2 * k := by exact_mod_cast this
    omega

theorem witness_CompareResults :
    compareOf (.cFS 0 31 30) = some (.single, 0, 0, 31, 30) ∧ compareOf (.cNgtD 7 1 0) = some (.double, 15, 7, 1, 0) := by
  decide

/-- The host numbers, a range whose last byte is the last mapped one, and one whose last byte is not mapped. -/
theorem witness_SystemCalls :
    let s (n a : Word) := start [(.x 2, n), (.x 4, a), (.x 5, 0x3FFE), (.x 6, 2)]
    let u := start [(.x 2, 4004), (.x 4, 2), (.x 5, 0x3FFE), (.x 6, 3)]
    (s 4001 0).reg 2 = 4001#32 ∧ (s 4246 0).reg 2 = 4246#32 ∧
    ((s 4004 0).reg 2 = 4004#32 ∧ (s 4004 0).reg 4 ≠ 1 ∧ (s 4004 0).reg 4 ≠ 2) ∧
    (∀ i < ((s 4004 1).reg 6).toNat, (s 4004 1).isMapped ((s 4004 1).reg 5 + BitVec.ofNat 32 i) = true) ∧
    ((s 4000 1).reg 2 ≠ 4001#32 ∧ (s 4000 1).reg 2 ≠ 4246#32 ∧ (s 4000 1).reg 2 ≠ 4004#32) ∧
    (u.faultRecord = none ∧ u.reg 4 = 2 ∧ 2 < (u.reg 6).toNat ∧ u.isMapped (u.reg 5 + BitVec.ofNat 32 2) = false ∧
      ∀ j < 2, u.isMapped (u.reg 5 + BitVec.ofNat 32 j) = true) := by decide +kernel

/-- An answer of each kind: an `Exit`, a `Refuse`, a `Continue` whose accesses are all good, and one whose second access
is the first to fault. -/
theorem witness_SystemCalls_answered :
    let s (a : HostAnswer) : State := { w0 with hostAnswers := [a] }
    let e (a : Word) : HostEffect := ⟨[(0x3FFC, 4), (a, 4)], [(.x 2, 1), (.x 2, 8)], [(0x1000, 9)], [], [1], some []⟩
    (s (.exit 7)).hostAnswers = [.exit 7] ∧ (s .refuse).hostAnswers = [.refuse] ∧
    ((s (.proceed (e 0x1000))).hostAnswers = [.proceed (e 0x1000)] ∧
      ∀ p ∈ (e 0x1000).accesses, (s (.proceed (e 0x1000))).accessFault p.1 p.2 = none) ∧
    ((e 0x4000).accesses = [(0x3FFC, 4)] ++ (0x4000, 4) :: [] ∧ (s (.proceed (e 0x4000))).faultRecord = none ∧
      (s (.proceed (e 0x4000))).accessFault 0x3FFC 4 = none ∧
      (s (.proceed (e 0x4000))).accessFault 0x4000 4 = some (.dataUnmapped 0x400000 0x4000)) := by decide +kernel

/-- An instruction answers a next state. -/
def completesOn (i : Instr) (s : State) : Bool :=
  match exec i s with
  | .next _ => true
  | .fault _ => false
  | .refused _ => false

theorem completesOn_iff {i : Instr} {s : State} : completesOn i s = true → ∃ t, exec i s = .next t := by
  unfold completesOn
  cases h : exec i s <;> simp

/-- No host answer is given, or one that writes the two registers D25 names. -/
theorem witness_OdepsNameEveryRegisterWritten :
    w0.hostAnswers = [] ∧ (∃ t, exec (.syscall 0) { w0 with
      hostAnswers := [.proceed ⟨[], [(.x 2, 1), (.x 7, 0)], [], [], [], none⟩] } = .next t) ∧
    (∀ p ∈ [(RegName.x 2, (1 : Word)), (.x 7, 0)], p.1 = .x 2 ∨ p.1 = .x 7) := by
  exact ⟨by decide, completesOn_iff (by decide +kernel), by decide⟩

theorem witness_NopBreakSync :
    w0.faultRecord = none ∧ w0.params.syncMode = .fault ∧ (startWith otherParams []).params.syncMode = .noop := by decide

/-- A signed condition that holds and one that does not, in each mode. -/
theorem witness_Traps :
    let s := start [(.x 8, 0xFFFFFFFF)]
    s.faultRecord = none ∧ s.params.trapMode = .conditional ∧ (s.reg 8).toInt < (s.reg 9).toInt ∧
    ¬(s.reg 8).toNat < (s.reg 9).toNat ∧ (startWith otherParams []).params.trapMode = .unimplemented := by decide +kernel

theorem witness_MarkersAreUnimplemented :
    markerGroupOf .eret = some .cp0 ∧ markerGroupOf .passSentinel = some .generic ∧ w0.faultRecord = none := by decide

/-- An instruction that stores, one that branches, one that warns: each answers a next state. -/
theorem witness_exec_next :
    let s := start [(.x 8, 0x1000), (.x 9, 0x7FFFFFFF)]
    (∃ t, exec (.sw 9 8 4) s = .next t) ∧ (∃ t, exec (.add 9 9 9) s = .next t) ∧ (∃ t, exec (.bc1fl 0 2) s = .next t) :=
  ⟨⟨_, rfl⟩, ⟨_, rfl⟩, ⟨_, rfl⟩⟩

/-- A branch, a jump and a register jump with their targets, no fault raised. -/
theorem witness_TargetPcIsWhereControlGoes :
    let s := start [(.x 25, 0x00401000)]
    leafTargetPc s (.instr (.bc1t 0 2)) = some 0x0040000C ∧ StaticFlag.cond ∈ flagsOf (.bc1t 0 2) ∧
    leafTargetPc s (.instr (.jalr 31 25)) = some 0x00401000 ∧ StaticFlag.uncond ∈ flagsOf (.jalr 31 25) ∧
    (after (.jalr 31 25) s).faultRecord = none ∧ (after (.bc1t 0 2) s).faultRecord = none := by decide +kernel

/-- The running state with a word at its entry: nothing cached, the fetch succeeds, the word decodes, the meaning answers. -/
theorem witness_StepRunsTheDecodedInstruction :
    let s := wAt 0x24080005 []
    s.faultRecord = none ∧ s.runEnd = none ∧ s.schedule = [] ∧ s.pendingStore = none ∧ s.haltPc ≠ some s.live.pc ∧
    s.cacheLookup s.live.pc = none ∧ s.fetchFault s.live.pc = none ∧
    decodeWord (s.mem.wordAt s.live.pc) = .instr (.addiu 8 0 5) := by decide +kernel

/-- The same where the instruction ends the run. -/
theorem witness_StepRunsTheDecodedInstruction_stops :
    let s := wAt 0x0000000C [(.x 2, 4001)]
    s.faultRecord = none ∧ s.runEnd = none ∧ decodeWord (s.mem.wordAt s.live.pc) = .instr (.syscall 0) ∧
    (after (.syscall 0) s).runEnd = some (.exited 0) := by decide +kernel

theorem witness_StepRunsTheCachedInstruction :
    let s := wCached 0x24080005 []
    s.faultRecord = none ∧ s.runEnd = none ∧ s.schedule = [] ∧ s.pendingStore = none ∧ s.haltPc ≠ some s.live.pc ∧
    s.cacheLookup s.live.pc = some ⟨0x24080005, .instr (.addiu 8 0 5)⟩ ∧
    (after (.addiu 8 0 5) (s.setReg 0 0)).faultRecord = none ∧ (after (.addiu 8 0 5) (s.setReg 0 0)).runEnd = none := by
  decide +kernel

/-- A misaligned pc, an unmapped one, and an accessible one that holds an Unknown word. -/
theorem witness_StepFaults :
    let s (pc : Word) := w0.setLive { w0.live with pc := pc }
    let u := wAt 0xFC000000 []
    (s 0x400001).live.pc.toNat % 4 ≠ 0 ∧ ((s 0x4000).live.pc.toNat % 4 = 0 ∧ ¬(s 0x4000).mappedBytes 0x4000 4) ∧
    (u.accessible u.live.pc 4 ∧ decodeWord (u.mem.wordAt u.live.pc) = .unknown ∧ u.cacheLookup u.live.pc = none ∧
      u.haltPc ≠ some u.live.pc ∧ u.schedule = [] ∧ u.pendingStore = none ∧ u.faultRecord = none ∧ u.runEnd = none) := by
  unfold State.accessible
  simp only [← mappedBytes_iff]
  decide +kernel

/-- A taken branch as the first instruction: the step answers, the run goes on, the decode succeeds. -/
theorem witness_DelaySlotExecutesNext :
    let s := wAt 0x10000003 []
    (∃ t, step s = .next t) ∧ (stepped s).faultRecord = none ∧ (stepped s).runEnd = none ∧ s.schedule = [] ∧
    (∃ inst u, s.decode = .ok (inst, u) ∧ leafMnemonic inst.leaf = "b") := by
  refine ⟨stepsOn_iff (by decide +kernel), by decide +kernel, by decide +kernel, by decide +kernel,
    decodeStatic 0x10000003, _, rfl, by decide +kernel⟩

theorem witness_FaultsArePrecise :
    let s := wAt 0x0007000D []
    s.faultRecord = none ∧ s.runEnd = none ∧ s.schedule = [] ∧ (∃ t, step s = .next t) ∧
    (stepped s).faultRecord = some (.breakpoint 0x400000 7168) :=
  ⟨by decide +kernel, by decide +kernel, by decide +kernel, stepsOn_iff (by decide +kernel), by decide +kernel⟩

/-- A fault without an end, an end without a fault, a step, a thread at the halt address. -/
theorem witness_EndedRunTakesNoStep :
    ((w0.recordFault (.trap 0 "teq")).faultRecord = some (.trap 0 "teq") ∧ (w0.recordFault (.trap 0 "teq")).runEnd = none) ∧
    ((w0.endRun .halted).runEnd = some .halted ∧ (w0.endRun .halted).faultRecord = none) ∧
    (∃ t, step (wAt 0 []) = .next t) ∧
    (({ w0 with haltPc := some 0x400000 } : State).haltPc = some w0.live.pc ∧ w0.schedule = [] ∧ w0.pendingStore = none) :=
  ⟨⟨by decide, by decide⟩, ⟨by decide, by decide⟩, stepsOn_iff (by decide +kernel), by decide, by decide⟩

theorem witness_CellZeroIsInvisible :
    let s := wAt 0x24080005 []
    s.faultRecord = none ∧ s.runEnd = none ∧ s.schedule = [] ∧ s.pendingStore = none ∧ ∀ f, s.decode ≠ .error f := by
  refine ⟨by decide +kernel, by decide +kernel, by decide +kernel, by decide +kernel, fun f h => ?_⟩
  have : (wAt 0x24080005 []).cacheLookup (wAt 0x24080005 []).live.pc = none ∧
      (wAt 0x24080005 []).fetchFault (wAt 0x24080005 []).live.pc = none := by decide +kernel
  simp only [State.decode, State.decodeAt, this.1, this.2, reduceCtorEq] at h

/-- A waiting thread at the entry of a `nop`, with a store to make if `p` says so; a request for it. -/
def wThreads (e : Event) (p : Option PendingStore) : State :=
  { wAt 0 [] with others := [⟨1, 0, Regs.atEntry 0x400000, false, Regs.zero, p⟩, ⟨2, 1, Regs.zero, true, Regs.zero, none⟩],
                  schedule := [e] }

/-- With a schedule and without; a request of each kind, the thread asked for in the middle of the threads. -/
theorem witness_StepTouchesOneThread :
    (wAt 0x24080005 []).schedule = [] ∧ (∃ t, step (wAt 0x24080005 []) = .next t) ∧
    ((wAt 0x24080005 []).threads.map Thread.tid).Nodup ∧
    (∀ e ∈ [Event.run 1, .runToStore 1, .setSpeculative 1 true, .decode 1 0x400000], (wThreads e none).acting = 1 ∧
      ((wThreads e none).threads.map Thread.tid).Nodup ∧ ∃ t, step (wThreads e none) = .next t) := by
  refine ⟨by decide +kernel, stepsOn_iff (by decide +kernel), by decide +kernel, fun e he => ⟨?_, ?_, stepsOn_iff ?_⟩⟩ <;>
    revert e <;> decide +kernel

/-- A thread that is there for each request, with a store to make and without, a hit and a misaligned `decode`; and a thread
that is not there. -/
theorem witness_ScheduleSelectsTheThread :
    (∀ e ∈ [Event.run 1, .runToStore 1, .setSpeculative 1 true, .decode 1 0x400000, .decode 1 2],
      ∀ p ∈ [none, some ⟨0x1000, 5⟩],
        (wThreads e p).faultRecord = none ∧ (wThreads e p).runEnd = none ∧ ((wThreads e p).threads.map Thread.tid).Nodup ∧
        (wThreads e p).schedule = e :: [] ∧ ⟨1, 0, Regs.atEntry 0x400000, false, Regs.zero, p⟩ ∈ (wThreads e p).threads) ∧
    (∃ inst t, (wThreads (.run 1) none).decodeAt 0x400000 = .ok (inst, t)) ∧
    (∃ f, (wThreads (.run 1) none).decodeAt 2 = .error f) ∧
    (∀ e ∈ [Event.run 3, .decode 3 0], e.thread = 3 ∧ ∀ o ∈ (wThreads e none).threads, o.tid ≠ 3) := by
  refine ⟨by decide +kernel, ⟨_, _, rfl⟩, ⟨_, rfl⟩, by decide +kernel⟩

theorem witness_RepeatedSetSpeculativeIsNoOp :
    w0.isSpeculative = false ∧ (w0.setSpeculative true).isSpeculative = true := by decide

theorem witness_SpeculationRestoresTheRegisters :
    let s := wAt 0x24080005 []
    s.isSpeculative = false ∧ s.schedule = [] ∧ ∃ t, Sys2Proof.core.run 1 (s.setSpeculative true) = .next t := by
  refine ⟨by decide +kernel, by decide +kernel, ?_⟩
  obtain ⟨t, h⟩ := stepsOn_iff (s := (wAt 0x24080005 []).setSpeculative true) (by decide +kernel)
  exact ⟨t, by simp only [Host.Core.run, show Sys2Proof.core.step = step from rfl, h]⟩

/-- The launch state of the vectors keeps the invariant, and steps. -/
theorem witness_StepKeepsInv : (wAt 0x24080005 []).Inv ∧ ∃ t, step (wAt 0x24080005 []) = .next t := by
  refine ⟨⟨by decide +kernel, ?_, ?_, ?_, ?_, by decide +kernel, by decide +kernel⟩, stepsOn_iff (by decide +kernel)⟩
  · have : (wAt 0x24080005 []).decodeCache = [] := by decide +kernel
    rw [this]
    simp [cacheOk]
  · unfold Regs.inSequence; decide +kernel
  · intro h; exact absurd h (by decide +kernel)
  · have : (wAt 0x24080005 []).others = [] := by decide +kernel
    rw [this]
    simp

end Sys2Proof.Tests
end

section
/-! PROOFS. The decode cache and the schedule (R8, R42, R384, R390). -/

namespace Sys2Proof.Machine

/-! ## The decode cache -/

/-- An entry inserted for one core and address is seen from no other. -/
theorem cacheLookup_cacheInsert_ne {s : State} {e : CacheEntry} {core : Nat} {p : Word}
    (h : core ≠ e.core ∨ p ≠ e.addr) :
    ({ s.cacheInsert e with core := core } : State).cacheLookup p =
      ({ s with core := core } : State).cacheLookup p :=
  (cacheLookup_cacheInsert { s with core := core } e p).trans
    (if_neg fun ⟨hc, ha⟩ => h.elim (· hc.symm) (· ha.symm))

/-- Settles O11, by the three cases of `decodeAt`: a hit, a miss whose fetch faults, a miss whose word is inserted. -/
theorem decodeUsesTheCache : Obligations.DecodeUsesTheCache := by
  intro s pc inst m rs
  refine ⟨fun hit => decodeAt_hit hit, fun miss f hf => decodeAt_fault miss hf,
    fun miss hf => ⟨_, decodeAt_miss miss hf, ?_, fun core p h => cacheLookup_cacheInsert_ne h, rfl⟩, rfl⟩
  rw [cacheLookup_cacheInsert, if_pos ⟨rfl, rfl⟩]

/-! ## Selecting a thread -/

/-- Threads of distinct names: a name determines its thread. -/
theorem thread_eq_of_tid_eq {s : State} (hn : (s.threads.map Thread.tid).Nodup) {o q : Thread} (ho : o ∈ s.threads)
    (hq : q ∈ s.threads) (h : o.tid = q.tid) : o = q :=
  List.inj_on_of_nodup_map hn ho hq h

/-- A thread that is there is selected as it stands: it is the one about to step, or it is swapped in. -/
theorem selectThread_of_mem {s : State} {o : Thread} (hn : (s.threads.map Thread.tid).Nodup) (ho : o ∈ s.threads) :
    (o = s.currentThread ∧ s.selectThread o.tid = some s) ∨
      (s.tid ≠ o.tid ∧ o ∈ s.others ∧ s.selectThread o.tid = some (s.swapIn o)) := by
  have there : s.tid = o.tid ∨ ∃ t ∈ s.others, t.tid = o.tid :=
    (List.mem_cons.1 ho).imp (fun e => (congrArg Thread.tid e).symm) (fun m => ⟨o, m, rfl⟩)
  obtain ⟨u, hu⟩ := Option.isSome_iff_exists.1 (selectThread_isSome there)
  obtain ⟨ht, rfl⟩ | ⟨hne, t, ht, hto, rfl⟩ := selectThread_some hu
  · exact .inl ⟨thread_eq_of_tid_eq hn ho List.mem_cons_self ht.symm, hu⟩
  · obtain rfl := thread_eq_of_tid_eq hn ho (List.mem_cons_of_mem _ ht) hto.symm
    exact .inr ⟨hne, ht, hu⟩

/-- A thread that is not there is not selected. -/
theorem selectThread_eq_none {s : State} {tid : Nat} (h : ∀ o ∈ s.threads, o.tid ≠ tid) : s.selectThread tid = none := by
  by_contra hc
  obtain ⟨u, hu⟩ := Option.ne_none_iff_exists'.1 hc
  obtain ⟨ht, -⟩ | ⟨-, t, ht, hto, -⟩ := selectThread_some hu
  · exact h s.currentThread List.mem_cons_self ht
  · exact h t (List.mem_cons_of_mem _ ht) hto

/-- Every thread but the one swapped in waits unchanged, the one switched out included. -/
theorem mem_others_swapIn {s : State} {o q : Thread} (ho : o ∈ s.others) (hq : q ∈ s.threads) (hne : q.tid ≠ o.tid) :
    q ∈ (s.swapIn o).others := by
  refine List.mem_map.2 ?_
  obtain rfl | hq := List.mem_cons.1 hq
  · exact ⟨o, ho, if_pos rfl⟩
  · exact ⟨q, hq, if_neg hne⟩

/-- The state with the thread `o` about to step, every other thread waiting, and the rest of the machine as in `s`. -/
structure Selected (s : State) (o : Thread) (u : State) : Prop where
  select : s.selectThread o.tid = some u
  current : u.currentThread = o
  waiting : ∀ q ∈ s.threads, q.tid ≠ o.tid → q ∈ u.others
  count : u.others.length = s.others.length
  machine : { u with
    tid := s.tid, core := s.core, live := s.live, isSpeculative := s.isSpeculative, shadow := s.shadow
    pendingStore := s.pendingStore, others := s.others } = s

/-- A thread that is there can be selected. -/
theorem exists_selected {s : State} {o : Thread} (hn : (s.threads.map Thread.tid).Nodup) (ho : o ∈ s.threads) :
    ∃ u, Selected s o u := by
  obtain ⟨rfl, hu⟩ | ⟨-, hm, hu⟩ := selectThread_of_mem hn ho
  · exact ⟨s, hu, rfl, fun q hq hne => (List.mem_cons.1 hq).resolve_left fun e => hne (e ▸ rfl), rfl, rfl⟩
  · exact ⟨s.swapIn o, hu, rfl, fun q hq hne => mem_others_swapIn hm hq hne, List.length_map _, rfl⟩

/-! ## Serving a request -/

/-- A mode is set between instructions (log 16). -/
theorem serve_setSpeculative {u : State} (tid : Nat) (b : Bool) (h : u.pendingStore = none) :
    u.serve (.setSpeculative tid b) = .next (u.setSpeculative b) := by
  simp [State.serve, h]

/-- It is refused within one (log 16). -/
theorem serve_setSpeculative_within {u : State} (tid : Nat) (b : Bool) (h : u.pendingStore ≠ none) :
    u.serve (.setSpeculative tid b) = .refused (.midInstruction tid) := by
  simp [State.serve, Option.isSome_iff_ne_none.2 h]

/-- A `decode` that succeeds leaves the state the decode leaves (R8). -/
theorem serve_decode_ok {u t : State} {inst : StaticInst} {pc : Word} (tid : Nat) (h : u.decodeAt pc = .ok (inst, t)) :
    u.serve (.decode tid pc) = .next t := by
  simp [State.serve, State.serveDecode, h]

/-- A `decode` whose fetch faults records the fault (R66). -/
theorem serve_decode_fault {u : State} {f : Fault} {pc : Word} (tid : Nat) (hr : u.faultRecord = none)
    (h : u.decodeAt pc = .error f) : u.serve (.decode tid pc) = .next { u with faultRecord := some f } := by
  simp [State.serve, State.serveDecode, h, raise_of_none f hr]

/-- Settles O56: the thread named is selected, or none is, and then `serve` answers by the request. -/
theorem scheduleSelectsTheThread : Obligations.ScheduleSelectsTheThread := by
  rintro s tid rest ⟨hf, he⟩ hn
  constructor
  · rintro o ho rfl
    obtain ⟨u, select, current, waiting, count, machine⟩ := exists_selected hn ho
    have served {e : Event} (ht : e.thread = o.tid) (hs : s.schedule = e :: rest) :
        step s = (u.setSchedule rest).serve e := step_eq_serve hf he hs (ht ▸ select)
    have pending : (u.setSchedule rest).pendingStore = o.pendingStore := congrArg Thread.pendingStore current
    have record : (u.setSchedule rest).faultRecord = none := (congrArg State.faultRecord machine).trans hf
    refine ⟨u, select, current, waiting, count, machine, served rfl, served rfl, fun b hs => ?_, fun pc hs => ?_⟩
    · rw [served rfl hs]
      exact ⟨fun h => serve_setSpeculative _ _ (pending.trans h),
        fun h => serve_setSpeculative_within _ _ (pending ▸ h)⟩
    · rw [served rfl hs]
      exact ⟨fun inst t h => serve_decode_ok _ h, fun f h => serve_decode_fault _ record h⟩
  · rintro absent e rfl hs
    exact step_noSuchThread hf he hs (selectThread_eq_none absent)

end Sys2Proof.Machine
end

section
/-! PROOFS. What floating-point arithmetic writes and where it gives a NaN (R281, R282, R289). -/

namespace Sys2Proof.Machine

/-! ## Frames of the float writes -/

/-- A frame holds of every longer list of parts. -/
theorem OnlyChanges.mono {p q : List Part} {s t : State} (h : OnlyChanges p s t) (hpq : p ⊆ q) : OnlyChanges q s t where
  x r hr := h.x r fun m => hr (hpq m)
  fw r hr := h.fw r fun m => hr (hpq m)
  lo hr := h.lo fun m => hr (hpq m)
  hi hr := h.hi fun m => hr (hpq m)
  ea hr := h.ea fun m => hr (hpq m)
  fcsr hr := h.fcsr fun m => hr (hpq m)
  npc hr := h.npc fun m => hr (hpq m)
  nnpc hr := h.nnpc fun m => hr (hpq m)
  mem a ha := h.mem a fun base n m => ha base n (hpq m)
  warnings hr := h.warnings fun m => hr (hpq m)
  faultRecord hr := h.faultRecord fun m => hr (hpq m)
  runEnd hr := h.runEnd fun m => hr (hpq m)
  hostOut1 hr := h.hostOut1 fun m => hr (hpq m)
  hostOut2 hr := h.hostOut2 fun m => hr (hpq m)
  hostAnswers hr := h.hostAnswers fun m => hr (hpq m)
  mapped hr := h.mapped fun m => hr (hpq m)
  draws hr := h.draws fun m => hr (hpq m)
  pc := h.pc
  thread := h.thread
  outside := h.outside

/-- One change after another, of the same parts. -/
theorem OnlyChanges.trans {p : List Part} {s t u : State} (h : OnlyChanges p s t) (k : OnlyChanges p t u) :
    OnlyChanges p s u where
  x r hr := (k.x r hr).trans (h.x r hr)
  fw r hr := (k.fw r hr).trans (h.fw r hr)
  lo hr := (k.lo hr).trans (h.lo hr)
  hi hr := (k.hi hr).trans (h.hi hr)
  ea hr := (k.ea hr).trans (h.ea hr)
  fcsr hr := (k.fcsr hr).trans (h.fcsr hr)
  npc hr := (k.npc hr).trans (h.npc hr)
  nnpc hr := (k.nnpc hr).trans (h.nnpc hr)
  mem a ha := (k.mem a ha).trans (h.mem a ha)
  warnings hr := (k.warnings hr).trans (h.warnings hr)
  faultRecord hr := (k.faultRecord hr).trans (h.faultRecord hr)
  runEnd hr := (k.runEnd hr).trans (h.runEnd hr)
  hostOut1 hr := (k.hostOut1 hr).trans (h.hostOut1 hr)
  hostOut2 hr := (k.hostOut2 hr).trans (h.hostOut2 hr)
  hostAnswers hr := (k.hostAnswers hr).trans (h.hostAnswers hr)
  mapped hr := (k.mapped hr).trans (h.mapped hr)
  draws hr := (k.draws hr).trans (h.draws hr)
  pc := k.pc.trans h.pc
  thread := by
    obtain ⟨h1, h2, h3, h4, h5⟩ := h.thread
    obtain ⟨k1, k2, k3, k4, k5⟩ := k.thread
    exact ⟨k1.trans h1, k2.trans h2, k3.trans h3, k4.trans h4, k5.trans h5⟩
  outside := by
    obtain ⟨h1, h2, h3, h4, h5⟩ := h.outside
    obtain ⟨k1, k2, k3, k4, k5⟩ := k.outside
    exact ⟨k1.trans h1, k2.trans h2, k3.trans h3, k4.trans h4, k5.trans h5⟩

/-- The frame of a float word written (R33). -/
theorem onlyChanges_setFw (s : State) (i : Reg) (v : Word) : OnlyChanges [.fw i] s (s.setFw i v) := by
  constructor
  case fw => exact fun r hr => Regs.getFw_setFw_ne _ _ _ _ fun e => hr (e ▸ List.mem_singleton.2 rfl)
  all_goals simp [State.reg]

/-- A float word read after a write of it. -/
@[simp] theorem fw_setFw_self (s : State) (i : Reg) (v : Word) : (s.setFw i v).fw i = v := Regs.getFw_setFw_self s.live i v

/-- The frame of a pair written (R34). -/
theorem onlyChanges_setFl (s : State) (i : Reg) (v : DWord) : OnlyChanges (pairParts i) s (s.setFl i v) :=
  ((onlyChanges_setFw s _ _).mono (by simp [pairParts])).trans
    ((onlyChanges_setFw (s.setFw (pairLow i) _) _ _).mono (by simp [pairParts]))

/-- The frame of free values used. -/
theorem onlyChanges_useDraws (s : State) (n : Nat) : OnlyChanges [.draws] s (s.useDraws n) := by
  constructor <;> simp [State.reg, State.fw]

/-- The float words after free values are used. -/
@[simp] theorem fw_useDraws (s : State) (n : Nat) (i : Reg) : (s.useDraws n).fw i = s.fw i := rfl

/-- The float pairs after free values are used. -/
@[simp] theorem fl_useDraws (s : State) (n : Nat) (i : Reg) : (s.useDraws n).fl i = s.fl i := rfl

/-! ## NaN encodings -/

/-- A test of a word for being a binary32 NaN encoding (R282). -/
theorem isNaNSingle_iff {v : Word} : isNaNSingle v = true ↔ FloatFmt.single.isNaN v.toNat := by
  simp only [isNaNSingle, FloatFmt.isNaN, FloatFmt.maxExp, FloatFmt.single, Bool.and_eq_true, beq_iff_eq, bne_iff_ne, ne_eq,
    ← BitVec.toNat_inj, BitVec.extractLsb'_toNat, BitVec.toNat_ofNat, Nat.shiftRight_eq_div_pow]
  simp

/-- A test of a doubleword for being a binary64 NaN encoding (R282). -/
theorem isNaNDouble_iff {v : DWord} : isNaNDouble v = true ↔ FloatFmt.double.isNaN v.toNat := by
  simp only [isNaNDouble, FloatFmt.isNaN, FloatFmt.maxExp, FloatFmt.double, Bool.and_eq_true, beq_iff_eq, bne_iff_ne, ne_eq,
    ← BitVec.toNat_inj, BitVec.extractLsb'_toNat, BitVec.toNat_ofNat, Nat.shiftRight_eq_div_pow]
  simp

/-- The exponent and the fraction of an encoding put together from its three fields. -/
theorem fields_append {k m n : Nat} (sign : BitVec k) (ex : BitVec m) (frac : BitVec n) :
    (sign ++ ex ++ frac).extractLsb' n m = ex ∧ (sign ++ ex ++ frac).extractLsb' 0 n = frac := by
  refine ⟨?_, BitVec.extractLsb'_append_eq_right⟩
  rw [BitVec.extractLsb'_append_eq_of_le le_rfl, Nat.sub_self, BitVec.extractLsb'_append_eq_right]

/-- Exponent all ones and a fraction that is not 0: a binary32 NaN encoding. -/
theorem isNaNSingle_append (sign : BitVec 1) {frac : BitVec 23} (h : frac ≠ 0) :
    isNaNSingle (sign ++ 0xFF#8 ++ frac) = true := by
  obtain ⟨hex, hfrac⟩ := fields_append sign 0xFF#8 frac
  exact Bool.and_eq_true_iff.2 ⟨beq_iff_eq.2 hex, bne_iff_ne.2 fun e => h (hfrac.symm.trans e)⟩

/-- Exponent all ones and a fraction that is not 0: a binary64 NaN encoding. -/
theorem isNaNDouble_append (sign : BitVec 1) {frac : BitVec 52} (h : frac ≠ 0) :
    isNaNDouble (sign ++ 0x7FF#11 ++ frac) = true := by
  obtain ⟨hex, hfrac⟩ := fields_append sign 0x7FF#11 frac
  exact Bool.and_eq_true_iff.2 ⟨beq_iff_eq.2 hex, bne_iff_ne.2 fun e => h (hfrac.symm.trans e)⟩

/-- Every free word stands for a binary32 NaN encoding (R282). -/
theorem isNaNSingle_nanSingle (d : Word) : isNaNSingle (nanSingle d) = true := by
  unfold nanSingle
  split
  · exact isNaNSingle_append _ (by decide)
  · exact isNaNSingle_append _ ‹_›

/-- Every free doubleword stands for a binary64 NaN encoding (R282). -/
theorem isNaNDouble_nanDouble (d : DWord) : isNaNDouble (nanDouble d) = true := by
  unfold nanDouble
  split
  · exact isNaNDouble_append _ (by decide)
  · exact isNaNDouble_append _ ‹_›

/-! ## What a float result writes -/

/-- A NaN single result is FP_NAN's where it gives a NaN encoding (R282). -/
theorem writeSingle_none_given {s : State} {c : Config.FpCall} {v : DWord} (fd : Reg)
    (h : s.params.fpNan.lookup c = some v) (hn : isNaNSingle (v.setWidth 32) = true) :
    writeSingle c fd none s = .next (s.setFw fd (v.setWidth 32)) := by
  simp [writeSingle, h, hn, Option.filter]

/-- Otherwise it is a draw (R282). -/
theorem writeSingle_none_drawn {s : State} {c : Config.FpCall} (fd : Reg)
    (h : ∀ v, s.params.fpNan.lookup c = some v → ¬isNaNSingle (v.setWidth 32) = true) :
    writeSingle c fd none s = .next ((s.setFw fd (nanSingle s.drawWord)).useDraws 1) := by
  cases hl : s.params.fpNan.lookup c with
  | none => simp [writeSingle, hl]
  | some v => simp [writeSingle, hl, h v hl, Option.filter]

/-- A NaN double result is FP_NAN's where it gives a NaN encoding (R282). -/
theorem writeDouble_none_given {s : State} {c : Config.FpCall} {v : DWord} (fd : Reg)
    (h : s.params.fpNan.lookup c = some v) (hn : isNaNDouble v = true) :
    writeDouble c fd none s = .next (s.setFl fd v) := by
  simp [writeDouble, h, hn, Option.filter]

/-- Otherwise it is a draw (R282). -/
theorem writeDouble_none_drawn {s : State} {c : Config.FpCall} (fd : Reg)
    (h : ∀ v, s.params.fpNan.lookup c = some v → ¬isNaNDouble v = true) :
    writeDouble c fd none s = .next ((s.setFl fd (nanDouble s.drawDouble)).useDraws 1) := by
  cases hl : s.params.fpNan.lookup c with
  | none => simp [writeDouble, hl]
  | some v => simp [writeDouble, hl, h v hl, Option.filter]

/-- A single result that is a NaN exactly where `nan` holds: a NaN encoding, FP_NAN's where it gives one, or FP_ARITH's
number where it gives one; nothing but the view and the count of draws changes. -/
def SingleResult (s : State) (c : Config.FpCall) (fd : Reg) (nan : Prop) (t : State) : Prop :=
  (nan → FloatFmt.single.isNaN (t.fw fd).toNat) ∧
  (nan → ∀ v, s.params.fpNan.lookup c = some v → FloatFmt.single.isNaN (v.setWidth 32).toNat → t.fw fd = v.setWidth 32) ∧
  (¬nan → ∀ v, s.params.fpArith.lookup c = some v → t.fw fd = v.setWidth 32) ∧ OnlyChanges [.fw fd, .draws] s t

/-- The same of a double result and its pair. -/
def DoubleResult (s : State) (c : Config.FpCall) (fd : Reg) (nan : Prop) (t : State) : Prop :=
  (nan → FloatFmt.double.isNaN (t.fl fd).toNat) ∧
  (nan → ∀ v, s.params.fpNan.lookup c = some v → FloatFmt.double.isNaN v.toNat → t.fl fd = v) ∧
  (¬nan → ∀ v, s.params.fpArith.lookup c = some v → t.fl fd = v) ∧ OnlyChanges (.draws :: pairParts fd) s t

/-- `writeSingle` completes, with a NaN where its argument is none. -/
theorem writeSingle_result {c : Config.FpCall} {fd : Reg} {r : Option Nat} {s : State} {nan : Prop} (h : r = none ↔ nan) :
    ∃ t, writeSingle c fd r s = .next t ∧ SingleResult s c fd nan t := by
  have frame (v : Word) : OnlyChanges [.fw fd, .draws] s (s.setFw fd v) := (onlyChanges_setFw s fd v).mono (by simp)
  cases r with
  | some bits =>
    have hn : ¬nan := fun k => Option.some_ne_none _ (h.2 k)
    refine ⟨_, rfl, fun k => absurd k hn, fun k => absurd k hn, fun _ v hv => ?_, frame _⟩
    rw [hv, fw_setFw_self]
    rfl
  | none =>
    have hn : nan := h.1 rfl
    by_cases given : ∃ v, s.params.fpNan.lookup c = some v ∧ isNaNSingle (v.setWidth 32) = true
    · obtain ⟨v, hv, hnan⟩ := given
      refine ⟨_, writeSingle_none_given fd hv hnan, fun _ => ?_, fun _ w hw _ => ?_, fun k => absurd hn k, frame _⟩
      · rw [fw_setFw_self]
        exact isNaNSingle_iff.1 hnan
      · obtain rfl := Option.some.inj (hv.symm.trans hw)
        exact fw_setFw_self s fd _
    · have drawn (v) (hv : s.params.fpNan.lookup c = some v) : ¬isNaNSingle (v.setWidth 32) = true :=
        fun k => given ⟨v, hv, k⟩
      refine ⟨_, writeSingle_none_drawn fd drawn, fun _ => ?_, fun _ v hv k => absurd (isNaNSingle_iff.2 k) (drawn v hv),
        fun k => absurd hn k, (frame _).trans ((onlyChanges_useDraws _ 1).mono (by simp))⟩
      rw [fw_useDraws, fw_setFw_self]
      exact isNaNSingle_iff.1 (isNaNSingle_nanSingle s.drawWord)

/-- `writeDouble` completes, with a NaN where its argument is none. -/
theorem writeDouble_result {c : Config.FpCall} {fd : Reg} {r : Option Nat} {s : State} {nan : Prop} (h : r = none ↔ nan) :
    ∃ t, writeDouble c fd r s = .next t ∧ DoubleResult s c fd nan t := by
  have frame (v : DWord) : OnlyChanges (.draws :: pairParts fd) s (s.setFl fd v) :=
    (onlyChanges_setFl s fd v).mono (by simp)
  cases r with
  | some bits =>
    have hn : ¬nan := fun k => Option.some_ne_none _ (h.2 k)
    refine ⟨_, rfl, fun k => absurd k hn, fun k => absurd k hn, fun _ v hv => ?_, frame _⟩
    rw [hv, fl_setFl_self]
    rfl
  | none =>
    have hn : nan := h.1 rfl
    by_cases given : ∃ v, s.params.fpNan.lookup c = some v ∧ isNaNDouble v = true
    · obtain ⟨v, hv, hnan⟩ := given
      refine ⟨_, writeDouble_none_given fd hv hnan, fun _ => ?_, fun _ w hw _ => ?_, fun k => absurd hn k, frame _⟩
      · rw [fl_setFl_self]
        exact isNaNDouble_iff.1 hnan
      · obtain rfl := Option.some.inj (hv.symm.trans hw)
        exact fl_setFl_self s fd _
    · have drawn (v) (hv : s.params.fpNan.lookup c = some v) : ¬isNaNDouble v = true := fun k => given ⟨v, hv, k⟩
      refine ⟨_, writeDouble_none_drawn fd drawn, fun _ => ?_, fun _ v hv k => absurd (isNaNDouble_iff.2 k) (drawn v hv),
        fun k => absurd hn k, (frame _).trans ((onlyChanges_useDraws _ 1).mono (by simp))⟩
      rw [fl_useDraws, fl_setFl_self]
      exact isNaNDouble_iff.1 (isNaNDouble_nanDouble s.drawDouble)

/-! ## Where an operation gives a NaN -/

@[simp] theorem FloatVal.rat?_nan : FloatVal.nan.rat? = none := rfl
@[simp] theorem FloatVal.rat?_inf (neg : Bool) : (FloatVal.inf neg).rat? = none := rfl

/-- A finite value is zero where its significand is. -/
@[simp] theorem FloatVal.rat?_fin_eq_zero {neg : Bool} {m : Nat} {e : Int} :
    (FloatVal.fin neg m e).rat? = some 0 ↔ m = 0 := by
  have h2 : (2 : ℚ) ^ e ≠ 0 := by positivity
  cases neg <;> simp [FloatVal.rat?_fin, signOf, h2]

/-- A finite value is negative where its sign is set and its significand is not 0. -/
theorem FloatVal.rat?_fin_neg {neg : Bool} {m : Nat} {e : Int} :
    (∃ x, (FloatVal.fin neg m e).rat? = some x ∧ x < 0) ↔ neg = true ∧ m ≠ 0 := by
  have h2 : (0 : ℚ) < 2 ^ e := by positivity
  cases neg
  · simpa [FloatVal.rat?_fin, signOf] using by positivity
  · simp [FloatVal.rat?_fin, signOf, h2, Nat.pos_iff_ne_zero]

/-- A sum is a NaN for a NaN operand and for infinities of opposite signs (R282). -/
theorem FloatFmt.addVal_eq_none {f : FloatFmt} {u v : FloatVal} :
    f.addVal u v = none ↔ u = .nan ∨ v = .nan ∨ ∃ n, u = .inf n ∧ v = .inf (!n) := by
  cases u with
  | nan => simp [FloatFmt.addVal]
  | inf n =>
    cases v with
    | nan => simp [FloatFmt.addVal]
    | inf k => cases n <;> cases k <;> simp [FloatFmt.addVal]
    | fin => simp [FloatFmt.addVal]
  | fin n m e =>
    cases v with
    | nan => simp [FloatFmt.addVal]
    | inf => simp [FloatFmt.addVal]
    | fin => simp only [FloatFmt.addVal]; split <;> simp

/-- A product is a NaN for a NaN operand and for a zero by an infinity (R282, R292). -/
theorem FloatFmt.mulVal_eq_none {f : FloatFmt} {u v : FloatVal} :
    f.mulVal u v = none ↔ u = .nan ∨ v = .nan ∨
      (u.rat? = some 0 ∧ (∃ n, v = .inf n) ∨ (∃ n, u = .inf n) ∧ v.rat? = some 0) := by
  cases u <;> cases v <;> simp [FloatFmt.mulVal]

/-- A quotient is a NaN for a NaN operand, for two zeros and for two infinities (R282, R293). -/
theorem FloatFmt.divVal_eq_none {f : FloatFmt} {u v : FloatVal} :
    f.divVal u v = none ↔ u = .nan ∨ v = .nan ∨
      (u.rat? = some 0 ∧ v.rat? = some 0 ∨ (∃ n, u = .inf n) ∧ ∃ n, v = .inf n) := by
  cases u with
  | nan => simp [FloatFmt.divVal]
  | inf => cases v <;> simp [FloatFmt.divVal]
  | fin _ mu _ =>
    cases v with
    | nan => simp [FloatFmt.divVal]
    | inf => simp [FloatFmt.divVal]
    | fin _ mv _ => by_cases hu : mu = 0 <;> by_cases hv : mv = 0 <;> simp [FloatFmt.divVal, hu, hv]

/-- A square root is a NaN for a NaN and for a negative value (R282, R294). -/
theorem FloatFmt.sqrtVal_eq_none {f : FloatFmt} {v : FloatVal} :
    f.sqrtVal v = none ↔ v = .nan ∨ v = .inf true ∨ ∃ x, v.rat? = some x ∧ x < 0 := by
  cases v with
  | nan => simp [FloatFmt.sqrtVal]
  | inf n => simp [FloatFmt.sqrtVal]
  | fin n m e => by_cases hm : m = 0 <;> simp [FloatFmt.sqrtVal, FloatVal.rat?_fin_neg, hm]

/-- The flipped sign makes no NaN and undoes none. -/
@[simp] theorem FloatVal.neg_eq_nan {v : FloatVal} : v.neg = .nan ↔ v = .nan := by
  cases v <;> simp [FloatVal.neg]

/-- The infinities under the flipped sign. -/
@[simp] theorem FloatVal.neg_eq_inf {v : FloatVal} {n : Bool} : v.neg = .inf n ↔ v = .inf (!n) := by
  cases v <;> simp [FloatVal.neg, Bool.not_eq_eq_eq_not]

/-- `add.fmt` gives a NaN for a NaN and for opposed infinities (R282). -/
theorem FloatFmt.add_eq_none {f : FloatFmt} {a b : Nat} :
    f.add a b = none ↔ f.isNaN a ∨ f.isNaN b ∨ ∃ n, f.unpack a = .inf n ∧ f.unpack b = .inf (!n) := by
  simp only [FloatFmt.add, FloatFmt.addVal_eq_none, FloatFmt.unpack_eq_nan]

/-- `sub.fmt` gives a NaN for a NaN and for infinities of one sign (R282). -/
theorem FloatFmt.sub_eq_none {f : FloatFmt} {a b : Nat} :
    f.sub a b = none ↔ f.isNaN a ∨ f.isNaN b ∨ ∃ n, f.unpack a = .inf n ∧ f.unpack b = .inf n := by
  simp only [FloatFmt.sub, FloatFmt.addVal_eq_none, FloatVal.neg_eq_nan, FloatVal.neg_eq_inf, FloatFmt.unpack_eq_nan,
    Bool.not_not]

/-- `mul.fmt` gives a NaN for a NaN and for a zero by an infinity (R282). -/
theorem FloatFmt.mul_eq_none {f : FloatFmt} {a b : Nat} :
    f.mul a b = none ↔ f.isNaN a ∨ f.isNaN b ∨
      ((f.unpack a).rat? = some 0 ∧ (∃ n, f.unpack b = .inf n) ∨
        (∃ n, f.unpack a = .inf n) ∧ (f.unpack b).rat? = some 0) := by
  simp only [FloatFmt.mul, FloatFmt.mulVal_eq_none, FloatFmt.unpack_eq_nan]

/-- `div.fmt` gives a NaN for a NaN, for two zeros and for two infinities (R282). -/
theorem FloatFmt.div_eq_none {f : FloatFmt} {a b : Nat} :
    f.div a b = none ↔ f.isNaN a ∨ f.isNaN b ∨
      ((f.unpack a).rat? = some 0 ∧ (f.unpack b).rat? = some 0 ∨
        (∃ n, f.unpack a = .inf n) ∧ ∃ n, f.unpack b = .inf n) := by
  simp only [FloatFmt.div, FloatFmt.divVal_eq_none, FloatFmt.unpack_eq_nan]

/-- `sqrt.fmt` gives a NaN for a NaN and for a negative value (R282). -/
theorem FloatFmt.sqrt_eq_none {f : FloatFmt} {a : Nat} :
    f.sqrt a = none ↔ f.isNaN a ∨ f.unpack a = .inf true ∨ ∃ x, (f.unpack a).rat? = some x ∧ x < 0 := by
  simp only [FloatFmt.sqrt, FloatFmt.sqrtVal_eq_none, FloatFmt.unpack_eq_nan]

/-- A conversion between the formats gives a NaN for a NaN alone (R306, R309). -/
theorem FloatFmt.convert_eq_none {src dst : FloatFmt} {a : Nat} : src.convert dst a = none ↔ src.isNaN a := by
  rw [← FloatFmt.unpack_eq_nan]
  cases h : src.unpack a <;> simp [FloatFmt.convert, h]

/-! ## Every arithmetic instruction and conversion to floating point -/

/-- Settles O35: each instruction is a `writeSingle` or a `writeDouble`, whose argument is none exactly where O35 has a
NaN; a conversion from an integer gives none. -/
theorem arithmeticAlwaysCompletes : Obligations.ArithmeticAlwaysCompletes := by
  intro s fd fs ft
  have number {bits : Nat} : some bits = none ↔ False := by simp
  exact ⟨writeSingle_result FloatFmt.add_eq_none, writeSingle_result FloatFmt.sub_eq_none,
    writeSingle_result FloatFmt.mul_eq_none, writeSingle_result FloatFmt.div_eq_none,
    writeSingle_result FloatFmt.sqrt_eq_none, writeSingle_result FloatFmt.convert_eq_none,
    writeSingle_result number, writeSingle_result number,
    writeDouble_result FloatFmt.add_eq_none, writeDouble_result FloatFmt.sub_eq_none,
    writeDouble_result FloatFmt.mul_eq_none, writeDouble_result FloatFmt.div_eq_none,
    writeDouble_result FloatFmt.sqrt_eq_none, writeDouble_result FloatFmt.convert_eq_none,
    writeDouble_result number, writeDouble_result number⟩

end Sys2Proof.Machine
end

section
/-! PROOFS. What an instruction does to the registers and to the run (R25, R46, R128, R341). -/

namespace Sys2Proof.Machine

/-! ## What an instruction can do -/

/-- The identifier a named register has in the dependency lists (R46). -/
def RegName.id : RegName → RegId
  | .x i => intId i
  | .fw i => floatId i
  | .lo => miscId 0
  | .hi => miscId 1
  | .ea => miscId 2
  | .fcsr => miscId 3

/-- What an instruction that stops nothing does: it writes the registers its `odeps` name, leaves `npc` unless it is a
likely branch (R203), and the run goes on as it did. -/
structure Effect (i : Instr) (s t : State) : Prop where
  registers : ∀ n : RegName, n.id ∉ odepsOf i → t.live.getNamed n = s.live.getNamed n
  npc : mnemonicOf i ≠ "bc1fl" → mnemonicOf i ≠ "bc1tl" → t.live.npc = s.live.npc
  faultRecord : t.faultRecord = s.faultRecord
  runEnd : t.runEnd = s.runEnd

variable {i : Instr} {s t u : State}

/-- One effect after another. -/
theorem Effect.trans (h : Effect i s t) (k : Effect i t u) : Effect i s u where
  registers n hn := (k.registers n hn).trans (h.registers n hn)
  npc hf ht := (k.npc hf ht).trans (h.npc hf ht)
  faultRecord := k.faultRecord.trans h.faultRecord
  runEnd := k.runEnd.trans h.runEnd

/-- What leaves the live registers and the end of the run alone has no effect. -/
theorem Effect.of_live_eq (hl : t.live = s.live) (hf : t.faultRecord = s.faultRecord) (he : t.runEnd = s.runEnd) :
    Effect i s t :=
  ⟨fun _ _ => by rw [hl], fun _ _ => by rw [hl], hf, he⟩

/-- Nothing done. -/
theorem Effect.refl : Effect i s s := .of_live_eq rfl rfl rfl

/-- A register named in the `odeps` written. -/
theorem Effect.setNamed {m : RegName} {v : Word} (h : m.id ∈ odepsOf i) :
    Effect i s (s.setLive (s.live.setNamed m v)) where
  registers n hn := by
    rw [State.setLive_live, Regs.getNamed_setNamed, if_neg]
    rintro rfl
    exact hn h
  npc _ _ := by cases m <;> rfl
  faultRecord := rfl
  runEnd := rfl

theorem Effect.setReg {d : Reg} {v : Word} (h : intId d ∈ odepsOf i) : Effect i s (s.setReg d v) :=
  .setNamed (m := .x d) h

theorem Effect.setFw {d : Reg} {v : Word} (h : floatId d ∈ odepsOf i) : Effect i s (s.setFw d v) :=
  .setNamed (m := .fw d) h

theorem Effect.setFl {d : Reg} {v : DWord} (hl : floatId (pairLow d) ∈ odepsOf i)
    (hh : floatId (pairHigh d) ∈ odepsOf i) : Effect i s (s.setFl d v) :=
  (Effect.setFw hl).trans (.setFw hh)

theorem Effect.setLo {v : Word} (h : miscId 0 ∈ odepsOf i) : Effect i s (s.setLo v) := .setNamed (m := .lo) h

theorem Effect.setHi {v : Word} (h : miscId 1 ∈ odepsOf i) : Effect i s (s.setHi v) := .setNamed (m := .hi) h

theorem Effect.setHiLo {h l : Word} (hl : miscId 0 ∈ odepsOf i) (hh : miscId 1 ∈ odepsOf i) :
    Effect i s (s.setHiLo h l) :=
  (Effect.setLo hl).trans (.setHi hh)

theorem Effect.setEa {v : Word} (h : miscId 2 ∈ odepsOf i) : Effect i s (s.setEa v) := .setNamed (m := .ea) h

theorem Effect.setFcsr {v : Word} (h : miscId 3 ∈ odepsOf i) : Effect i s (s.setFcsr v) := .setNamed (m := .fcsr) h

/-- `nnpc` is no register of the dependency lists. -/
theorem Effect.setNnpc {v : Word} : Effect i s (s.setNnpc v) :=
  ⟨fun n _ => by cases n <;> rfl, fun _ _ => rfl, rfl, rfl⟩

theorem Effect.useDraws {n : Nat} : Effect i s (s.useDraws n) := .of_live_eq rfl rfl rfl

theorem Effect.setMem {m : Memory} : Effect i s (s.setMem m) := .of_live_eq rfl rfl rfl

/-- A link writes its register and `nnpc` (R204). -/
theorem Effect.linkThenJump {d : Reg} {a : Word} (h : intId d ∈ odepsOf i) : Effect i s (linkThenJump d a s) :=
  (Effect.setReg h).trans .setNnpc

theorem Effect.warnOverflow {r : Int} {n : String} : Effect i s (s.warnOverflow r n) := by
  unfold State.warnOverflow
  split
  · exact .of_live_eq rfl rfl rfl
  · exact .refl

/-- Every result an instruction can have (R341, R370): an effect; a fault, before which at most `ea` was written (R243); an
end of the run, or what the host answers. -/
inductive Does (i : Instr) (s : State) : Res → Prop
  | completes {t : State} (h : Effect i s t) : Does i s (.next t)
  | faults (f : Fault) : Does i s (raise f s)
  | accessFaults (f : Fault) (a : Word) (h : miscId 2 ∈ odepsOf i) : Does i s (raise f (s.setEa a))
  | ends (e : RunEnd) : Does i s (.next (s.endRun e))
  | answered (e : HostEffect) (rest : List HostAnswer) (h : s.hostAnswers = .proceed e :: rest)
      (h2 : intId 2 ∈ odepsOf i) (h7 : intId 7 ∈ odepsOf i) :
      Does i s (.next ((s.applyHost e).setHostAnswers rest))

/-! ### The shared operations -/

/-- An access that checks out is followed by the rest of the instruction. -/
theorem does_accessing {a : Word} {n : Nat} {g : State → State} (h : miscId 2 ∈ odepsOf i)
    (k : Effect i (s.setEa a) (g (s.setEa a))) : Does i s (s.accessing a n fun u => .next (g u)) := by
  unfold State.accessing
  split
  · exact .accessFaults _ a h
  · exact .completes ((Effect.setEa h).trans k)

theorem does_loadReg {n : Nat} {value : Memory → Word → Word} {rt base : Reg} {offset : BitVec 16}
    (hr : intId rt ∈ odepsOf i) (h : miscId 2 ∈ odepsOf i) : Does i s (loadReg n value rt base offset s) := by
  unfold loadReg
  exact does_accessing h (.setReg hr)

theorem does_loadPartial {merge : Word → Word → Nat → Word} {rt base : Reg} {offset : BitVec 16}
    (hr : intId rt ∈ odepsOf i) (h : miscId 2 ∈ odepsOf i) : Does i s (loadPartial merge rt base offset s) := by
  unfold loadPartial
  exact does_accessing h (.setReg hr)

theorem does_storeMem {n : Nat} {store : Memory → Word → Memory} {base : Reg} {offset : BitVec 16}
    (h : miscId 2 ∈ odepsOf i) : Does i s (storeMem n store base offset s) := by
  unfold storeMem
  exact does_accessing h .setMem

theorem does_storePartial {merge : Word → Word → Nat → Word} {rt base : Reg} {offset : BitVec 16}
    (h : miscId 2 ∈ odepsOf i) : Does i s (storePartial merge rt base offset s) := by
  unfold storePartial
  exact does_accessing h .setMem

theorem does_branchIf (c : Bool) (o : BitVec 16) : Does i s (branchIf c o s) := by
  cases c
  · exact .completes .refl
  · exact .completes .setNnpc

/-- A likely branch is the one way to write `npc` (R203). -/
theorem does_branchLikelyIf (c : Bool) (o : BitVec 16) (h : mnemonicOf i = "bc1fl" ∨ mnemonicOf i = "bc1tl") :
    Does i s (branchLikelyIf c o s) := by
  cases c
  · exact .completes ⟨fun n _ => by cases n <;> rfl, fun hf ht => absurd h (not_or.2 ⟨hf, ht⟩), rfl, rfl⟩
  · exact .completes .setNnpc

theorem does_unlessClash {c : Bool} {m : Config.LinkClash} {n : String} {r : Res} (h : Does i s r) :
    Does i s (unlessClash c m n s r) := by
  cases c <;> cases m
  case true.fault => exact .faults _
  all_goals exact h

theorem does_linkThenBranchIf (c : Bool) (o : BitVec 16) (h : intId 31 ∈ odepsOf i) :
    Does i s (linkThenBranchIf c o s) := by
  cases c
  · exact .completes (.setReg h)
  · exact .completes (.linkThenJump h)

theorem does_trapIf (c : Bool) (n : String) : Does i s (trapIf c n s) := by
  unfold trapIf
  split
  · cases c
    · exact .completes .refl
    · exact .faults _
  · exact .faults _

theorem does_execSync (stype : BitVec 5) : Does i s (execSync stype s) := by
  unfold execSync
  split
  · exact .faults _
  · exact .completes .refl

theorem does_divideByZero (n : String) (hl : miscId 0 ∈ odepsOf i) (hh : miscId 1 ∈ odepsOf i) :
    Does i s (divideByZero n s) := by
  unfold divideByZero
  split
  · exact .faults _
  · exact .completes ((Effect.setHiLo hl hh).trans .useDraws)

theorem does_execDiv (rs rt : Reg) (hl : miscId 0 ∈ odepsOf i) (hh : miscId 1 ∈ odepsOf i) :
    Does i s (execDiv rs rt s) := by
  unfold execDiv divideOverflow
  dsimp only
  split_ifs
  · exact does_divideByZero _ hl hh
  · split
    · exact .faults _
    · exact .completes (.setHiLo hl hh)
  · exact .completes (.setHiLo hl hh)

theorem does_execDivu (rs rt : Reg) (hl : miscId 0 ∈ odepsOf i) (hh : miscId 1 ∈ odepsOf i) :
    Does i s (execDivu rs rt s) := by
  unfold execDivu
  dsimp only
  split_ifs
  · exact does_divideByZero _ hl hh
  · exact .completes (.setHiLo hl hh)

theorem does_ungated (n : String) : Does i s (ungated n s) := by
  unfold ungated
  split
  · exact .completes .refl
  · exact .faults _

theorem does_execCfc1 (rt fs : Reg) (h : intId rt ∈ odepsOf i) : Does i s (execCfc1 rt fs s) := by
  unfold execCfc1
  split_ifs
  · exact .completes (.setReg h)
  · exact does_ungated _

theorem does_execCtc1 (rt fs : Reg) (h : miscId 3 ∈ odepsOf i) : Does i s (execCtc1 rt fs s) := by
  unfold execCtc1
  split_ifs
  · exact .completes (.setFcsr h)
  · exact does_ungated _

theorem does_writeSingle {c : Config.FpCall} {fd : Reg} {r : Option Nat} (h : floatId fd ∈ odepsOf i) :
    Does i s (writeSingle c fd r s) := by
  unfold writeSingle
  split
  · exact .completes (.setFw h)
  · split
    · exact .completes (.setFw h)
    · exact .completes ((Effect.setFw h).trans .useDraws)

theorem does_writeInt32 {c : Config.FpCall} {fd : Reg} {r : Option Int} (h : floatId fd ∈ odepsOf i) :
    Does i s (writeInt32 c fd r s) := by
  unfold writeInt32
  split
  · exact .completes (.setFw h)
  · split
    · exact .completes (.setFw h)
    · exact .completes ((Effect.setFw h).trans .useDraws)

theorem does_writeDouble {c : Config.FpCall} {fd : Reg} {r : Option Nat} (hl : floatId (pairLow fd) ∈ odepsOf i)
    (hh : floatId (pairHigh fd) ∈ odepsOf i) : Does i s (writeDouble c fd r s) := by
  unfold writeDouble
  split
  · exact .completes (.setFl hl hh)
  · split
    · exact .completes (.setFl hl hh)
    · exact .completes ((Effect.setFl hl hh).trans .useDraws)

theorem does_writeInt64 {c : Config.FpCall} {fd : Reg} {r : Option Int} (hl : floatId (pairLow fd) ∈ odepsOf i)
    (hh : floatId (pairHigh fd) ∈ odepsOf i) : Does i s (writeInt64 c fd r s) := by
  unfold writeInt64
  split
  · exact .completes (.setFl hl hh)
  · split
    · exact .completes (.setFl hl hh)
    · exact .completes ((Effect.setFl hl hh).trans .useDraws)

theorem Effect.setSyscallResult {a b : Word} (h2 : intId 2 ∈ odepsOf i) (h7 : intId 7 ∈ odepsOf i) :
    Effect i s (s.setSyscallResult a b) :=
  (Effect.setReg h2).trans (.setReg h7)

theorem does_hostWriteTo {append : State → List Byte → State} (ha : ∀ bytes, Effect i s (append s bytes))
    (h2 : intId 2 ∈ odepsOf i) (h7 : intId 7 ∈ odepsOf i) : Does i s (hostWriteTo append s) := by
  unfold hostWriteTo
  split
  · exact .completes ((ha _).trans (.setSyscallResult h2 h7))
  · exact .faults _

theorem does_hostWrite (h2 : intId 2 ∈ odepsOf i) (h7 : intId 7 ∈ odepsOf i) : Does i s (hostWrite s) := by
  unfold hostWrite
  split_ifs
  · exact does_hostWriteTo (fun _ => .of_live_eq rfl rfl rfl) h2 h7
  · exact does_hostWriteTo (fun _ => .of_live_eq rfl rfl rfl) h2 h7
  · exact .completes (.setSyscallResult h2 h7)

theorem does_hostCall (n : Word) (h2 : intId 2 ∈ odepsOf i) (h7 : intId 7 ∈ odepsOf i) : Does i s (hostCall n s) := by
  unfold hostCall
  split
  · exact .ends _
  · exact .ends _
  · exact does_hostWrite h2 h7
  · exact .ends _

theorem does_hostAnswered {answer : HostAnswer} {rest : List HostAnswer} (n : Word) (h : s.hostAnswers = answer :: rest)
    (h2 : intId 2 ∈ odepsOf i) (h7 : intId 7 ∈ odepsOf i) : Does i s (hostAnswered answer rest n s) := by
  unfold hostAnswered
  split
  · exact .ends _
  · exact .ends _
  · split
    · exact .faults _
    · exact .answered _ rest h h2 h7

theorem does_execSyscall (code : BitVec 20) (h2 : intId 2 ∈ odepsOf i) (h7 : intId 7 ∈ odepsOf i) :
    Does i s (execSyscall code s) := by
  unfold execSyscall
  split
  · exact does_hostCall _ h2 h7
  · exact does_hostAnswered _ (by assumption) h2 h7

/-- What every instruction does: the operation it is made of, and that its `odeps` name what that writes. -/
theorem exec_does (i : Instr) (s : State) : Does i s (exec i s) :=
  match i with
  | .nop .. => .completes .refl
  | .sll .. | .srl .. | .sra .. | .sllv .. | .srlv .. | .srav .. | .mfhi .. | .mflo .. | .addu .. | .subu .. | .and ..
  | .or .. | .xor .. | .nor .. | .slt .. | .sltu .. | .addiu .. | .slti .. | .sltiu .. | .andi .. | .ori .. | .xori ..
  | .lui .. | .mfc1 .. => .completes (.setReg List.mem_cons_self)
  | .add .. | .sub .. | .addi .. => .completes (Effect.warnOverflow.trans (.setReg List.mem_cons_self))
  | .mult .. | .multu .. => .completes (.setHiLo List.mem_cons_self (.tail _ List.mem_cons_self))
  | .sync stype => does_execSync stype
  | .div rs rt => does_execDiv rs rt List.mem_cons_self (.tail _ List.mem_cons_self)
  | .divu rs rt => does_execDivu rs rt List.mem_cons_self (.tail _ List.mem_cons_self)
  | .mthi .. => .completes (.setHi List.mem_cons_self)
  | .mtlo .. => .completes (.setLo List.mem_cons_self)
  | .tge .. | .tgeu .. | .tlt .. | .tltu .. | .teq .. | .tne .. | .tgei .. | .tgeiu .. | .tlti .. | .tltiu .. | .teqi ..
  | .tnei .. => does_trapIf _ _
  | .b .. | .beq .. | .bne .. | .blez .. | .bgtz .. | .bltz .. | .bgez .. | .bc1f .. | .bc1t .. => does_branchIf _ _
  | .bc1fl .. => does_branchLikelyIf _ _ (.inl rfl)
  | .bc1tl .. => does_branchLikelyIf _ _ (.inr rfl)
  | .bltzal .. | .bgezal .. => does_unlessClash (does_linkThenBranchIf _ _ List.mem_cons_self)
  | .j .. | .jr .. => .completes .setNnpc
  | .bal .. | .jal .. => .completes (.linkThenJump List.mem_cons_self)
  | .jalr .. => does_unlessClash (.completes (.linkThenJump List.mem_cons_self))
  | .syscall code => does_execSyscall code List.mem_cons_self (.tail _ List.mem_cons_self)
  | .mtc1 .. | .absS .. | .movS .. | .negS .. => .completes (.setFw List.mem_cons_self)
  | .absD .. | .movD .. | .negD .. => .completes (.setFl List.mem_cons_self (.tail _ List.mem_cons_self))
  | .cfc1 rt fs => does_execCfc1 rt fs List.mem_cons_self
  | .ctc1 rt fs => does_execCtc1 rt fs List.mem_cons_self
  | .addS .. | .subS .. | .mulS .. | .divS .. | .sqrtS .. | .cvtSD .. =>
    does_writeSingle List.mem_cons_self
  | .cvtSW .. | .cvtSL .. => by
    dsimp only [exec, execCvtSW, execCvtSL]
    exact does_writeSingle List.mem_cons_self
  | .cvtWS .. | .cvtWD .. => does_writeInt32 List.mem_cons_self
  | .addD .. | .subD .. | .mulD .. | .divD .. | .sqrtD .. | .cvtDS .. =>
    does_writeDouble List.mem_cons_self (.tail _ List.mem_cons_self)
  | .cvtDW .. | .cvtDL .. => by
    dsimp only [exec, execCvtDW, execCvtDL]
    exact does_writeDouble List.mem_cons_self (.tail _ List.mem_cons_self)
  | .cvtLS .. | .cvtLD .. => does_writeInt64 List.mem_cons_self (.tail _ List.mem_cons_self)
  | .cFS .. | .cUnS .. | .cEqS .. | .cUeqS .. | .cOltS .. | .cUltS .. | .cOleS .. | .cUleS .. | .cSfS .. | .cNgleS ..
  | .cSeqS .. | .cNglS .. | .cLtS .. | .cNgeS .. | .cLeS .. | .cNgtS .. | .cFD .. | .cUnD .. | .cEqD .. | .cUeqD ..
  | .cOltD .. | .cUltD .. | .cOleD .. | .cUleD .. | .cSfD .. | .cNgleD .. | .cSeqD .. | .cNglD .. | .cLtD ..
  | .cNgeD .. | .cLeD .. | .cNgtD .. => .completes (.setFcsr List.mem_cons_self)
  | .lw .. | .ll .. => does_loadReg List.mem_cons_self (.tail _ List.mem_cons_self)
  | .lb .. | .lbu .. | .lh .. | .lhu .. => by
    dsimp only [exec, execLb, execLbu, execLh, execLhu]
    exact does_loadReg List.mem_cons_self (.tail _ List.mem_cons_self)
  | .lwl .. | .lwr .. => does_loadPartial List.mem_cons_self (.tail _ List.mem_cons_self)
  | .sb .. | .sh .. | .sw .. | .swc1 .. | .sdc1 .. => by
    dsimp only [exec, execSb, execSh, execSw, execSwc1, execSdc1]
    exact does_storeMem List.mem_cons_self
  | .swl .. | .swr .. => does_storePartial List.mem_cons_self
  | .sc .. => by
    dsimp only [exec, execSc]
    exact does_accessing (.tail _ List.mem_cons_self) (Effect.setMem.trans (.setReg List.mem_cons_self))
  | .lwc1 .. => by
    dsimp only [exec, execLwc1]
    exact does_accessing (.tail _ List.mem_cons_self) (.setFw List.mem_cons_self)
  | .ldc1 .. => by
    dsimp only [exec, execLdc1]
    exact does_accessing (.tail _ (.tail _ List.mem_cons_self)) (.setFl List.mem_cons_self (.tail _ List.mem_cons_self))
  | .brk .. | .ssnop | .ehb | .movf | .movt | .rotr | .rotrv | .jrHb | .jalrHb | .movz | .movn | .bltzl | .bgezl
  | .bltzall | .bgezall | .synci | .failSentinel | .passSentinel | .cop0 | .mfc0 | .mtc0 | .rdpgpr | .wrpgpr | .di
  | .ei | .tlbr | .tlbwi | .tlbwr | .tlbp | .eret | .deret | .wait | .dmfc1 | .mfhc1 | .dmtc1 | .mthc1 | .bc1any2
  | .bc1any4 | .roundLS | .truncLS | .ceilLS | .floorLS | .roundWS | .truncWS | .ceilWS | .floorWS | .movzS
  | .movnS | .recipS | .rsqrtS | .movfS | .movtS | .cvtPsS | .roundLD | .truncLD | .ceilLD | .floorLD | .roundWD
  | .truncWD | .ceilWD | .floorWD | .movzD | .movnD | .recipD | .rsqrtD | .movfD | .movtD | .fmtPs | .cop2 | .lwxc1
  | .ldxc1 | .luxc1 | .swxc1 | .sdxc1 | .suxc1 | .prefx | .alnvPs | .maddS | .maddD | .maddPs | .msubS | .msubD
  | .msubPs | .nmaddS | .nmaddD | .nmaddPs | .nmsubS | .nmsubD | .nmsubPs | .beql | .bnel | .blezl | .bgtzl | .madd
  | .maddu | .mul | .msub | .msubu | .clz | .clo | .sdbbp | .jalx | .ext | .ins | .wsbh | .seb | .seh | .rdhwr
  | .cache | .pref | .lwc2 | .ldc2 | .swc2 | .sdc2 => .faults _

/-! ### `odeps` -/

/-- Whatever way an instruction ends, a register its `odeps` do not name keeps its value; a host answer is taken to write
`x[2]` and `x[7]` (D25). -/
theorem Does.getNamed_eq (h : Does i s (.next t))
    (host : ∀ e rest, s.hostAnswers = .proceed e :: rest → ∀ p ∈ e.regs, p.1 = .x 2 ∨ p.1 = .x 7) (n : RegName)
    (hn : n.id ∉ odepsOf i) : t.live.getNamed n = s.live.getNamed n := by
  cases h with
  | completes h => exact h.registers n hn
  | faults f => rfl
  | accessFaults f a h =>
    exact (Effect.setEa h).registers n hn
  | ends e => rfl
  | answered e rest h h2 h7 =>
    refine Regs.getNamed_setAll_of_notMem fun p hp => ?_
    rintro rfl
    obtain e2 | e7 := host e rest h p hp
    · exact hn (e2 ▸ h2)
    · exact hn (e7 ▸ h7)

/-- Settles O44, by what an instruction of each kind writes: six kinds of register, one lemma. -/
theorem odepsNameEveryRegisterWritten : Obligations.OdepsNameEveryRegisterWritten := by
  intro s t i h host
  have unchanged (n : RegName) : n.id ∉ odepsOf i → t.live.getNamed n = s.live.getNamed n :=
    Does.getNamed_eq (h ▸ exec_does i s) host n
  exact ⟨fun r => unchanged (.x r), fun r => unchanged (.fw r), unchanged .lo, unchanged .hi, unchanged .ea,
    unchanged .fcsr⟩

end Sys2Proof.Machine
end

section
/-! PROOFS. What a step of any thread keeps, and the invariant (R27, R42, R63, R101, R384). -/

namespace Sys2Proof.Machine

variable {s t u v : State}

/-! ## What every step keeps -/

/-- What no step of a thread changes, with no host answer the mapping, and that the memory's canonical form is kept. -/
structure Kept (s t : State) : Prop where
  thread : t.tid = s.tid ∧ t.core = s.core
  outside : t.others = s.others ∧ t.params = s.params ∧ t.haltPc = s.haltPc ∧ t.schedule = s.schedule
  mapped : s.hostAnswers = [] → t.mapped = s.mapped
  memory : s.mem.wf = true → t.mem.wf = true

theorem Kept.refl (s : State) : Kept s s := ⟨⟨rfl, rfl⟩, ⟨rfl, rfl, rfl, rfl⟩, fun _ => rfl, id⟩

/-- What is kept rests on no live register before the step. -/
theorem Kept.of_setLive {r : Regs} (h : Kept (s.setLive r) t) : Kept s t :=
  ⟨h.thread, h.outside, h.mapped, h.memory⟩

/-- What is kept rests on no live register after the step. -/
theorem Kept.setLive (r : Regs) (h : Kept s t) : Kept s (t.setLive r) :=
  ⟨h.thread, h.outside, h.mapped, h.memory⟩

/-- What is kept rests on no pending store. -/
theorem Kept.setPendingStore (p : Option PendingStore) (h : Kept s t) : Kept s (t.setPendingStore p) :=
  ⟨h.thread, h.outside, h.mapped, h.memory⟩

/-- Memory may be replaced by one in canonical form. -/
theorem Kept.setMem {m : Memory} (hm : t.mem.wf = true → m.wf = true) (h : Kept s t) : Kept s (t.setMem m) :=
  ⟨h.thread, h.outside, h.mapped, fun hs => hm (h.memory hs)⟩

/-- What is kept rests on no entry put in the decode cache before the step. -/
theorem Kept.of_cacheInsert {e : CacheEntry} (h : Kept (s.cacheInsert e) t) : Kept s t :=
  ⟨h.thread, h.outside, h.mapped, h.memory⟩

/-- A fault recorded keeps all of it. -/
theorem Kept.recordFault (f : Fault) (h : Kept s t) : Kept s (t.recordFault f) :=
  ⟨h.thread, h.outside, h.mapped, h.memory⟩

/-- What is fixed in an instruction is kept. -/
theorem Fixed.kept (h : Fixed s t) : Kept s t := by
  obtain ⟨tid, core, -⟩ := h.thread
  obtain ⟨others, -, params, haltPc, schedule⟩ := h.outside
  exact ⟨⟨tid, core⟩, ⟨others, params, haltPc, schedule⟩, fun e => (h.host e).2, h.memory⟩

/-- Where the counters are not to advance, they stand as they were, and the run has one end at most. -/
def StopsInPlace (s t : State) : Prop :=
  (t.running ∧ t.pendingStore = none) ∨
    ((t.live.npc = s.live.npc ∧ t.live.nnpc = s.live.nnpc) ∧ (t.faultRecord = none ∨ t.runEnd = none))

/-- What the execution of a step, its decode past and its counters not yet advanced, does to a running machine. -/
structure Executes (s t : State) : Prop extends Kept s t where
  mode : t.isSpeculative = s.isSpeculative ∧ t.shadow = s.shadow
  decodeCache : t.decodeCache = s.decodeCache
  stops : StopsInPlace s t

/-- A running machine that records a fault stops in place. -/
theorem executes_raise {f : Fault} (hs : s.running) (h : raise f s = .next t) : Executes s t := by
  obtain rfl := Host.Outcome.next.inj h
  exact ⟨(Kept.refl s).recordFault f, ⟨rfl, rfl⟩, rfl, .inr ⟨⟨rfl, rfl⟩, .inr hs.2⟩⟩

/-- Every instruction that a running machine executes goes on or stops in place. -/
theorem Does.stopsInPlace {i : Instr} (hs : s.running) (hp : t.pendingStore = none) (h : Does i s (.next t)) :
    StopsInPlace s t := by
  obtain ⟨hf, he⟩ := hs
  cases h with
  | completes h => exact .inl ⟨⟨h.faultRecord.trans hf, h.runEnd.trans he⟩, hp⟩
  | faults f => exact .inr ⟨⟨rfl, rfl⟩, .inr he⟩
  | accessFaults f a h => exact .inr ⟨⟨rfl, rfl⟩, .inr he⟩
  | ends e => exact .inr ⟨⟨rfl, rfl⟩, .inl hf⟩
  | answered e rest h h2 h7 => exact .inl ⟨⟨hf, he⟩, hp⟩

theorem executes_execLeaf {inst : StaticInst} (hs : s.running) (hp : s.pendingStore = none)
    (h : execLeaf inst s = .next t) : Executes s t := by
  unfold execLeaf at h
  split at h
  case h_1 i hi =>
    have fixed := exec_fixed h
    obtain ⟨-, -, speculative, shadow, pending⟩ := fixed.thread
    obtain ⟨-, cache, -⟩ := fixed.outside
    have does : Does i s (.next t) := h ▸ exec_does i s
    exact ⟨fixed.kept, ⟨speculative, shadow⟩, cache, does.stopsInPlace hs (pending.trans hp)⟩
  case h_2 => exact executes_raise hs h

/-- The first half of a partial-word store leaves its second pending, so the counters stay (R68). -/
theorem executes_beginStore {merge : Word → Word → Nat → Word} {rt base : Reg} {offset : BitVec 16} (hs : s.running)
    (h : beginStore merge rt base offset s = .next t) : Executes s t := by
  unfold beginStore State.accessing at h
  dsimp only at h
  split at h
  · obtain rfl := Host.Outcome.next.inj h
    exact ⟨((Kept.refl s).setLive _).recordFault _, ⟨rfl, rfl⟩, rfl, .inr ⟨⟨rfl, rfl⟩, .inr hs.2⟩⟩
  · obtain rfl := Host.Outcome.next.inj h
    exact ⟨((Kept.refl s).setLive _).setPendingStore _, ⟨rfl, rfl⟩, rfl, .inr ⟨⟨rfl, rfl⟩, .inl hs.1⟩⟩

theorem executes_execLeafToStore {inst : StaticInst} (hs : s.running) (hp : s.pendingStore = none)
    (h : execLeafToStore inst s = .next t) : Executes s t := by
  unfold execLeafToStore at h
  split at h
  · exact executes_beginStore hs h
  · exact executes_beginStore hs h
  · exact executes_execLeaf hs hp h

/-- The second half stores the word, or faults as any store does (R63, R68). -/
theorem executes_finishStore {p : PendingStore} (hs : s.running) (h : finishStore p s = .next t) : Executes s t := by
  obtain ⟨f, -, e⟩ | ⟨-, e⟩ := finishStore_cases p s
  · exact executes_raise hs (e ▸ h)
  · obtain rfl := Host.Outcome.next.inj (e.symm.trans h)
    exact ⟨((Kept.refl s).setMem (Memory.wf_setWord _ _)).setPendingStore _, ⟨rfl, rfl⟩, rfl, .inl ⟨hs, rfl⟩⟩

/-! ## A request served -/

/-- The decode cache as it was, or with the entry of a miss in front (R42). -/
def CacheGrows (s t : State) : Prop :=
  t.decodeCache = s.decodeCache ∨
    ∃ pc, s.cacheLookup pc = none ∧ s.fetchFault pc = none ∧
      t.decodeCache = ⟨s.core, pc, decodeStatic (s.mem.wordAt pc)⟩ :: s.decodeCache

/-- What a request other than `setSpeculative` does to a running machine, its thread the one about to step. -/
structure Serves (s t : State) : Prop extends Kept s t where
  mode : t.isSpeculative = s.isSpeculative ∧ t.shadow = s.shadow
  cache : CacheGrows s t
  sequence : s.live.inSequence → t.live.inSequence
  oneEnd : t.faultRecord = none ∨ t.runEnd = none

/-- A decode leaves a running machine running. -/
theorem running_of_decodeAt {pc : Word} {inst : StaticInst} (hs : s.running) (h : s.decodeAt pc = .ok (inst, u)) :
    u.running := by
  obtain ⟨rfl, -⟩ | ⟨-, -, -, rfl⟩ := decodeAt_ok h
  · exact hs
  · exact hs

/-- A decode lets the cache grow, and the live registers and the pending store be. -/
theorem decodeAt_frame {pc : Word} {inst : StaticInst} (h : s.decodeAt pc = .ok (inst, u)) :
    CacheGrows s u ∧ u.live = s.live ∧ u.pendingStore = s.pendingStore ∧
      (u.isSpeculative = s.isSpeculative ∧ u.shadow = s.shadow) := by
  obtain ⟨rfl, -⟩ | ⟨miss, fetch, rfl, rfl⟩ := decodeAt_ok h
  · exact ⟨.inl rfl, rfl, rfl, rfl, rfl⟩
  · exact ⟨.inr ⟨pc, miss, fetch, rfl⟩, rfl, rfl, rfl, rfl⟩

/-- What is kept after a decode is kept. -/
theorem Kept.of_decodeAt {pc : Word} {inst : StaticInst} (h : s.decodeAt pc = .ok (inst, u)) (k : Kept u t) : Kept s t := by
  obtain ⟨rfl, -⟩ | ⟨-, -, -, rfl⟩ := decodeAt_ok h
  · exact k
  · exact k.of_cacheInsert

/-- A step's end after its execution: the counters are in sequence, whether they advance or not (R27, R28). -/
theorem Executes.finishStep {r : Res} (hx : ∀ v, r = .next v → Executes s v) (h : finishStep r = .next t) :
    Serves s t ∧ t.decodeCache = s.decodeCache := by
  obtain ⟨v, hv, ⟨hf, -, -, rfl⟩ | ⟨hn, rfl⟩⟩ := finishStep_next_cases h
  · have x := hx v hv
    exact ⟨⟨x.toKept.setLive _, x.mode, .inl x.decodeCache, fun _ => rfl, .inl hf⟩, x.decodeCache⟩
  · obtain ⟨kept, mode, cache, ⟨⟨hf, he⟩, hp⟩ | ⟨⟨hnpc, hnnpc⟩, one⟩⟩ := hx t hv
    · exact absurd ⟨hf, he, hp⟩ hn
    · refine ⟨⟨kept, mode, .inl cache, fun seq => ?_, one⟩, cache⟩
      rw [Regs.inSequence, hnpc, hnnpc]
      exact seq

/-- A request that a running machine answers by recording a fault. -/
theorem serves_raise {f : Fault} (hs : s.running) (h : raise f s = .next t) : Serves s t := by
  obtain rfl := Host.Outcome.next.inj h
  exact ⟨(Kept.refl s).recordFault f, ⟨rfl, rfl⟩, .inl rfl, id, .inr hs.2⟩

/-- A thread's step, whatever executes what it decodes. -/
theorem stepWith_serves {execute : StaticInst → State → Res}
    (hx : ∀ inst u v, u.running → u.pendingStore = none → execute inst u = .next v → Executes u v) (hs : s.running)
    (h : stepWith execute s = .next t) : Serves s t := by
  obtain ⟨p, -, h⟩ | ⟨hp, -, ⟨f, -, rfl⟩ | ⟨inst, u, hd, h⟩⟩ := stepWith_next_cases h
  · exact (Executes.finishStep (fun v => executes_finishStore hs) h).1
  · exact serves_raise (f := f) hs rfl
  · obtain ⟨grows, live, pending, speculative, shadow⟩ := decodeAt_frame hd
    have running : u.running := running_of_decodeAt hs hd
    obtain ⟨k, cache⟩ := Executes.finishStep (hx inst u.clearZero · running (pending.trans hp)) h
    obtain ⟨speculative', shadow'⟩ := k.mode
    refine ⟨k.toKept.of_setLive.of_decodeAt hd, ⟨speculative'.trans speculative, shadow'.trans shadow⟩, ?_,
      fun seq => k.sequence ?_, k.oneEnd⟩
    · unfold CacheGrows
      rw [cache]
      exact grows
    · show u.live.inSequence
      rwa [live]

theorem stepThread_serves (hs : s.running) (h : stepThread s = .next t) : Serves s t :=
  stepWith_serves (fun _ _ _ => executes_execLeaf) hs h

/-- Everything a served request can do: set the mode, or leave it and keep the rest. -/
theorem serve_next_cases {e : Event} (hs : s.running) (h : s.serve e = .next t) :
    (∃ tid b, e = .setSpeculative tid b ∧ t = s.setSpeculative b) ∨
      ((∀ tid b, e ≠ .setSpeculative tid b) ∧ Serves s t) := by
  cases e with
  | run tid => exact .inr ⟨nofun, stepThread_serves hs h⟩
  | runToStore tid => exact .inr ⟨nofun, stepWith_serves (fun _ _ _ => executes_execLeafToStore) hs h⟩
  | setSpeculative tid b =>
    simp only [State.serve] at h
    split at h
    · cases h
    · exact .inl ⟨tid, b, rfl, (Host.Outcome.next.inj h).symm⟩
  | decode tid pc =>
    refine .inr ⟨nofun, ?_⟩
    simp only [State.serve, State.serveDecode] at h
    split at h
    · exact serves_raise hs h
    · rename_i inst u hd
      obtain rfl := Host.Outcome.next.inj h
      obtain ⟨grows, live, -, mode⟩ := decodeAt_frame hd
      exact ⟨(Kept.refl u).of_decodeAt hd, mode, grows, fun seq => live ▸ seq, .inl (running_of_decodeAt hs hd).1⟩

/-- A mode set moves the registers alone. -/
theorem kept_setSpeculative (s : State) (b : Bool) : Kept s (s.setSpeculative b) := by
  unfold State.setSpeculative
  split <;> exact ⟨⟨rfl, rfl⟩, ⟨rfl, rfl, rfl, rfl⟩, fun _ => rfl, id⟩

/-- Whatever the request, it keeps what a step keeps. -/
theorem kept_of_serve {e : Event} (hs : s.running) (h : s.serve e = .next t) : Kept s t := by
  obtain ⟨-, b, -, rfl⟩ | ⟨-, k⟩ := serve_next_cases hs h
  · exact kept_setSpeculative s b
  · exact k.toKept

/-- Selecting a thread leaves a running machine running. -/
theorem running_of_selectThread {tid : Nat} (hs : s.running) (h : s.selectThread tid = some u) : u.running := by
  obtain ⟨-, rfl⟩ | ⟨-, o, -, -, rfl⟩ := selectThread_some h <;> exact hs

/-- A step that answers a next state serves one request, in the thread it is of, and that thread's machine is running. -/
theorem step_next_serve (h : step s = .next t) :
    ∃ u e, s.selectThread s.acting = some u ∧ (u.setSchedule s.schedule.tail).running ∧
      (u.setSchedule s.schedule.tail).serve e = .next t ∧
      ((∀ n b rest, s.schedule ≠ .setSpeculative n b :: rest) → ∀ n b, e ≠ .setSpeculative n b) := by
  obtain ⟨hr, ⟨hs, h⟩ | ⟨e, rest, u, hs, hu, h⟩⟩ := step_next_cases h
  · refine ⟨s, .run s.tid, ?_, hr, ?_, fun _ => nofun⟩
    · simp [State.acting, hs, State.selectThread]
    · rw [hs, List.tail_nil, ← hs]
      exact h
  · refine ⟨u, e, ?_, (running_of_selectThread hr hu : u.running), ?_, fun hn n b he => hn n b rest (he ▸ hs)⟩
    · simpa only [State.acting, hs] using hu
    · rw [hs]
      exact h

end Sys2Proof.Machine
end

section
/-! PROOFS. The invariant, the threads, the decode cache and speculation over a step (R27, R38 to R42, R63, R384). -/

namespace Sys2Proof.Machine

variable {s t u : State} {o : Thread}

/-! ## The thread selected -/

/-- Whatever thread is selected, the decode caches are as they were. -/
theorem selectThread_decodeCache {tid : Nat} (h : s.selectThread tid = some u) : u.decodeCache = s.decodeCache := by
  obtain ⟨-, rfl⟩ | ⟨-, o, -, -, rfl⟩ := selectThread_some h <;> rfl

/-- A thread that is selected is there. -/
theorem selected_of_selectThread {tid : Nat} (hn : (s.threads.map Thread.tid).Nodup) (h : s.selectThread tid = some u) :
    ∃ o ∈ s.threads, o.tid = tid ∧ Selected s o u := by
  by_contra hc
  have absent (o) (ho : o ∈ s.threads) : o.tid ≠ tid := by
    rintro rfl
    obtain ⟨u', hu'⟩ := exists_selected hn ho
    obtain rfl := Option.some.inj (h.symm.trans hu'.select)
    exact hc ⟨o, ho, rfl, hu'⟩
  exact Option.some_ne_none u (h.symm.trans (selectThread_eq_none absent))

/-- Selecting one permutes the threads: each is still there, and there are as many. -/
theorem Selected.threads_perm (hn : (s.threads.map Thread.tid).Nodup) (ho : o ∈ s.threads) (h : Selected s o u) :
    s.threads.Perm u.threads := by
  have still : s.threads ⊆ u.threads := fun q hq => by
    by_cases hq' : q.tid = o.tid
    · obtain rfl := thread_eq_of_tid_eq hn hq ho hq'
      exact h.current ▸ List.mem_cons_self
    · exact List.mem_cons_of_mem _ (h.waiting q hq hq')
  exact (List.subperm_of_subset hn.of_map still).perm_of_length_le (Nat.succ_le_succ h.count.le)

/-! ## The decode cache -/

/-- What a core's lookup answers rests on the cache. -/
theorem cacheLookup_core_congr (h : t.decodeCache = s.decodeCache) (core : Nat) (p : Word) :
    ({ t with core := core } : State).cacheLookup p = ({ s with core := core } : State).cacheLookup p := by
  simp only [State.cacheLookup, h]

/-- A cache that grows keeps every entry of every core: what is put in front was in it for no address (R42). -/
theorem CacheGrows.cacheLookup {core : Nat} {p : Word} {inst : StaticInst} (h : CacheGrows s t)
    (hp : ({ s with core := core } : State).cacheLookup p = some inst) :
    ({ t with core := core } : State).cacheLookup p = some inst := by
  obtain h | ⟨pc, miss, -, h⟩ := h
  · exact (cacheLookup_core_congr h core p).trans hp
  · have other : core ≠ s.core ∨ p ≠ pc := by
      by_contra hc
      obtain ⟨hcore, hpc⟩ := not_or.1 hc
      obtain rfl := not_not.1 hcore
      obtain rfl := not_not.1 hpc
      exact Option.some_ne_none inst (hp.symm.trans miss)
    exact (cacheLookup_core_congr (s := s.cacheInsert _) h core p).trans ((cacheLookup_cacheInsert_ne other).trans hp)

/-- A served request lets the cache grow, or leaves it. -/
theorem cacheGrows_of_serve {e : Event} (hs : s.running) (h : s.serve e = .next t) : CacheGrows s t := by
  obtain ⟨-, b, -, rfl⟩ | ⟨-, k⟩ := serve_next_cases hs h
  · unfold State.setSpeculative
    split <;> exact .inl rfl
  · exact k.cache

/-- Settles O12: selecting a thread leaves the caches, and serving it only lets its core's grow. -/
theorem decodeCacheIsNeverInvalidated : Obligations.DecodeCacheIsNeverInvalidated := by
  intro s t core p inst h hp
  obtain ⟨u, e, hu, hr, h, -⟩ := step_next_serve h
  refine (cacheGrows_of_serve hr h).cacheLookup ?_
  exact (cacheLookup_core_congr (selectThread_decodeCache hu) core p).trans hp

/-! ## Other threads -/

/-- Settles O55: the thread of the step is selected, every other one waits, and the request served keeps them so. -/
theorem stepTouchesOneThread : Obligations.StepTouchesOneThread := by
  intro s t h hn
  obtain ⟨u, e, hu, hr, h, mode⟩ := step_next_serve h
  obtain ⟨o, ho, act, sel⟩ := selected_of_selectThread hn hu
  have k := kept_of_serve hr h
  obtain ⟨tid, core⟩ := k.thread
  obtain ⟨others, params, haltPc, schedule⟩ := k.outside
  have names : t.threads.map Thread.tid = u.threads.map Thread.tid :=
    congrArg₂ List.cons tid (congrArg (List.map Thread.tid) others)
  refine ⟨tid.trans ((congrArg Thread.tid sel.current).trans act), ?_, fun n => ?_, ?_, ?_,
    params.trans (congrArg State.params sel.machine :), haltPc.trans (congrArg State.haltPc sel.machine :), schedule,
    fun hh => ?_⟩
  · exact fun q hq hne => others ▸ sel.waiting q hq (act ▸ hne)
  · rw [names]
    exact ((sel.threads_perm hn ho).map Thread.tid).mem_iff.symm
  · exact others ▸ sel.count
  · rintro q hq hact
    obtain rfl := thread_eq_of_tid_eq hn hq ho (hact.trans act.symm)
    refine ⟨core.trans (congrArg Thread.core sel.current :), fun hne => ?_⟩
    obtain ⟨n, b, rfl, -⟩ | ⟨-, k⟩ := serve_next_cases hr h
    · exact absurd rfl (mode hne n b)
    · obtain ⟨speculative, shadow⟩ := k.mode
      exact ⟨speculative.trans (congrArg Thread.isSpeculative sel.current :),
        shadow.trans (congrArg Thread.shadow sel.current :)⟩
  · exact (k.mapped ((congrArg State.hostAnswers sel.machine :).trans hh)).trans (congrArg State.mapped sel.machine :)

/-! ## The invariant -/

/-- The invariant of the threads, said of all of them at once. -/
theorem State.Inv.inSequence (h : s.Inv) : ∀ o ∈ s.threads, o.inSequence :=
  List.forall_mem_cons.2 ⟨⟨h.sequence, h.snapshot⟩, h.threads⟩

/-- Selecting a thread keeps the invariant. -/
theorem State.Inv.selected (h : s.Inv) (ho : o ∈ s.threads) (sel : Selected s o u) : u.Inv := by
  have perm := sel.threads_perm h.names ho
  have seq (q : Thread) (hq : q ∈ u.threads) : q.inSequence := h.inSequence q (perm.mem_iff.2 hq)
  obtain ⟨sequence, snapshot⟩ := seq u.currentThread List.mem_cons_self
  exact
    { memory := (congrArg State.mem sel.machine ▸ h.memory :)
      cache := (congrArg State.decodeCache sel.machine ▸ h.cache :)
      sequence, snapshot
      threads := fun q hq => seq q (List.mem_cons_of_mem _ hq)
      names := (perm.map Thread.tid).nodup h.names
      oneEnd := h.oneEnd.imp (congrArg State.faultRecord sel.machine :).trans (congrArg State.runEnd sel.machine :).trans }

/-- No entry is found exactly where the core's cache has none for the address (R42). -/
theorem cacheLookup_eq_none {p : Word} :
    s.cacheLookup p = none ↔ ∀ e ∈ s.decodeCache, ¬(e.core = s.core ∧ e.addr = p) := by
  simp [State.cacheLookup]

/-- A fetch that does not fault is of a multiple of 4 (R66). -/
theorem aligned_of_fetchFault {pc : Word} (h : s.fetchFault pc = none) : pc.toNat % 4 = 0 := by
  by_contra hc
  simp [State.fetchFault, hc] at h

/-- A cache that grows stays as R42 says. -/
theorem CacheGrows.cacheOk (h : CacheGrows s t) (hs : cacheOk s.decodeCache) : cacheOk t.decodeCache := by
  obtain h | ⟨pc, miss, fetch, h⟩ := h
  · exact h ▸ hs
  · obtain ⟨entries, unique⟩ := hs
    rw [h]
    exact ⟨List.forall_mem_cons.2 ⟨⟨rfl, aligned_of_fetchFault fetch⟩, entries⟩,
      List.pairwise_cons.2 ⟨fun e he hc => cacheLookup_eq_none.1 miss e he ⟨hc.1.symm, hc.2.symm⟩, unique⟩⟩

/-- A served request other than `setSpeculative` keeps the invariant. -/
theorem State.Inv.serves (h : s.Inv) (k : Serves s t) : t.Inv := by
  obtain ⟨tid, -⟩ := k.thread
  obtain ⟨mode, shadow⟩ := k.mode
  obtain ⟨others, -⟩ := k.outside
  exact
    { memory := k.memory h.memory
      cache := k.cache.cacheOk h.cache
      sequence := k.sequence h.sequence
      snapshot := by rw [mode, shadow]; exact h.snapshot
      threads := by rw [others]; exact h.threads
      names := by rw [tid, others]; exact h.names
      oneEnd := k.oneEnd }

/-- A mode set keeps the invariant: the snapshot taken is in sequence, and so is the one restored. -/
theorem State.Inv.setSpeculative (h : s.Inv) (b : Bool) : (s.setSpeculative b).Inv := by
  cases b <;> cases hs : s.isSpeculative
  case false.true =>
    rw [setSpeculative_false hs]
    exact { h with sequence := h.snapshot hs, snapshot := nofun }
  case true.false =>
    rw [setSpeculative_true hs]
    exact { h with snapshot := fun _ => h.sequence }
  all_goals simpa only [State.setSpeculative, hs] using h

/-- Settles O59: the thread of the step is selected and its request served. -/
theorem stepKeepsInv : Obligations.StepKeepsInv := by
  intro s t inv h
  obtain ⟨u, e, hu, hr, h, -⟩ := step_next_serve h
  obtain ⟨o, ho, -, sel⟩ := selected_of_selectThread inv.names hu
  have inv' : (u.setSchedule s.schedule.tail).Inv := { inv.selected ho sel with }
  obtain ⟨-, b, -, rfl⟩ | ⟨-, k⟩ := serve_next_cases hr h
  · exact inv'.setSpeculative b
  · exact inv'.serves k

/-- Settles O60. -/
theorem resetInv : Obligations.ResetInv := by
  exact
    { memory := rfl
      cache := ⟨nofun, .nil⟩
      sequence := show Config.launchEntry + 8 = Config.launchEntry + 4 + 4 by decide
      snapshot := nofun
      threads := nofun
      names := List.nodup_singleton _
      oneEnd := .inl rfl }

end Sys2Proof.Machine
end

section
/-! PROOFS. Speculation, and what one step of a thread runs (R8, R23, R28, R38 to R42, R340). -/

namespace Sys2Proof.Machine

variable {s t u : State}

/-! ## Snapshot and restoration -/

/-- A step with no schedule leaves the mode and the snapshot, and still no schedule (R41). -/
theorem step_mode (hs : s.schedule = []) (h : step s = .next t) :
    t.schedule = [] ∧ t.isSpeculative = s.isSpeculative ∧ t.shadow = s.shadow := by
  obtain ⟨hr, ⟨-, h⟩ | ⟨e, rest, u, hc, -⟩⟩ := step_next_cases h
  · have k := stepThread_serves hr h
    obtain ⟨-, -, -, schedule⟩ := k.outside
    exact ⟨schedule.trans hs, k.mode⟩
  · exact absurd (hs.symm.trans hc) nofun

/-- A run of one step more takes its first step. -/
theorem run_succ_next {M : Host.Core} {n : Nat} {a b : M.State} (h : M.run (n + 1) a = .next b) :
    ∃ c, M.step a = .next c ∧ M.run n c = .next b := by
  unfold Host.Core.run at h
  split at h
  case h_1 c hc => exact ⟨c, hc, h⟩
  all_goals cases h

/-- A run of any length leaves the mode and the snapshot too. -/
theorem run_mode (n : Nat) (hs : s.schedule = []) (h : core.run n s = .next t) :
    t.isSpeculative = s.isSpeculative ∧ t.shadow = s.shadow := by
  induction n generalizing s with
  | zero =>
    obtain rfl := Host.Outcome.next.inj h
    exact ⟨rfl, rfl⟩
  | succ n ih =>
    obtain ⟨u, hu, h⟩ := run_succ_next h
    obtain ⟨schedule, mode, shadow⟩ := step_mode hs hu
    obtain ⟨mode', shadow'⟩ := ih schedule h
    exact ⟨mode'.trans mode, shadow'.trans shadow⟩

/-- Settles O58: the snapshot taken on entering is still there after the run, and leaving restores it. -/
theorem speculationRestoresTheRegisters : Obligations.SpeculationRestoresTheRegisters := by
  intro n s t hs
  have entered := setSpeculative_true hs
  refine ⟨entered, fun hsch h => ?_⟩
  rw [entered] at h
  obtain ⟨mode, shadow⟩ := run_mode (s := { s with shadow := s.live, isSpeculative := true }) n hsch h
  rw [setSpeculative_false mode]
  exact ⟨shadow, rfl, rfl, rfl, rfl, rfl, rfl, rfl⟩

/-- Settles O57. -/
theorem repeatedSetSpeculativeIsNoOp : Obligations.RepeatedSetSpeculativeIsNoOp := by
  rintro s b rfl
  cases h : s.isSpeculative <;> simp [State.setSpeculative, h]

/-! ## The step of a thread -/

/-- An instruction that completes, its decode past and the run not stopped, is followed by the advance (R28). -/
theorem step_of_exec {w : Word} {i : Instr} (hs : s.running) (hsch : s.schedule = []) (hp : s.pendingStore = none)
    (hh : s.haltPc ≠ some s.live.pc) (hd : s.decode = .ok (⟨w, .instr i⟩, u)) (h : exec i u.clearZero = .next t) :
    step s = finishStep (.next t) ∧ t.pendingStore = none := by
  obtain ⟨hf, he⟩ := hs
  refine ⟨?_, ?_⟩
  · rw [step_eq_stepThread hf he hsch, stepThread, stepWith_decoded hp hh hd, ← h]
    rfl
  · obtain ⟨-, -, -, -, pending⟩ := (exec_fixed h).thread
    obtain ⟨-, -, pending', -⟩ := decodeAt_frame hd
    exact pending.trans (pending'.trans hp)

/-- Settles O48: the decode is of a miss whose fetch does not fault. -/
theorem stepRunsTheDecodedInstruction : Obligations.StepRunsTheDecodedInstruction := by
  intro s t i hs hsch hp hh miss fetch hw h
  have hd : s.decode = .ok (⟨s.mem.wordAt s.live.pc, .instr i⟩,
      s.cacheInsert ⟨s.core, s.live.pc, ⟨s.mem.wordAt s.live.pc, .instr i⟩⟩) := hw ▸ decodeAt_miss miss fetch
  obtain ⟨step_eq, pending⟩ := step_of_exec hs hsch hp hh hd h
  rw [step_eq]
  exact ⟨fun ⟨hf, he⟩ => finishStep_running hf he pending, finishStep_stopped⟩

/-- Settles O49: the decode is a hit. -/
theorem stepRunsTheCachedInstruction : Obligations.StepRunsTheCachedInstruction := by
  rintro s t i w hs hsch hp hh hit h ⟨hf, he⟩
  obtain ⟨step_eq, pending⟩ := step_of_exec hs hsch hp hh (decodeAt_hit hit) h
  exact step_eq.trans (finishStep_running hf he pending)

/-! ## Delay slots -/

/-- No instruction but a likely branch writes `npc`, however it ends (R203). -/
theorem Does.npc_eq {i : Instr} (h : Does i s (.next t)) (hf : mnemonicOf i ≠ "bc1fl") (ht : mnemonicOf i ≠ "bc1tl") :
    t.live.npc = s.live.npc := by
  cases h with
  | completes h => exact h.npc hf ht
  | faults f => rfl
  | accessFaults f a h => rfl
  | ends e => rfl
  | answered e rest h h2 h7 => exact (Regs.setAll_counters _ _).2.1

/-- No leaf but a likely branch writes `npc`. -/
theorem execLeaf_npc {inst : StaticInst} (h : execLeaf inst s = .next t) (hf : leafMnemonic inst.leaf ≠ "bc1fl")
    (ht : leafMnemonic inst.leaf ≠ "bc1tl") : t.live.npc = s.live.npc := by
  unfold execLeaf at h
  split at h
  case h_1 i hi =>
    rw [hi] at hf ht
    exact Does.npc_eq (h ▸ exec_does i s) hf ht
  case h_2 => exact Host.Outcome.next.inj h ▸ rfl

/-- A step that leaves the run going, and had no store to leave pending, advanced the counters. -/
theorem advance_of_finishStep {r : Res} (hr : t.running) (hp : ∀ v, r = .next v → v.running → v.pendingStore = none)
    (h : finishStep r = .next t) : ∃ v, r = .next v ∧ t = v.advance := by
  obtain ⟨v, hv, ⟨-, -, -, rfl⟩ | ⟨hn, rfl⟩⟩ := finishStep_next_cases h
  · exact ⟨v, hv, rfl⟩
  · exact absurd ⟨hr.1, hr.2, hp t hv hr⟩ hn

/-- A store that is finished and faults not leaves none pending, and the counters as they were. -/
theorem finishStore_running {p : PendingStore} (h : finishStore p s = .next t) (hr : t.running) :
    t.pendingStore = none ∧ t.live = s.live := by
  obtain ⟨f, -, e⟩ | ⟨-, e⟩ := finishStore_cases p s
  · obtain rfl := Host.Outcome.next.inj (e.symm.trans h)
    exact absurd hr.1 (Option.some_ne_none _)
  · obtain rfl := Host.Outcome.next.inj (e.symm.trans h)
    exact ⟨rfl, rfl⟩

/-- Settles O51: the counters advanced, from an `npc` that the instruction or the finished store left alone. -/
theorem delaySlotExecutesNext : Obligations.DelaySlotExecutesNext := by
  intro s t u inst ⟨hf, he⟩ hsch h hr hd hbf hbt
  rw [step_eq_stepThread hf he hsch] at h
  obtain ⟨p, -, h⟩ | ⟨hp, -, ⟨f, -, rfl⟩ | ⟨inst', u', hd', h⟩⟩ := stepWith_next_cases h
  · obtain ⟨v, hv, rfl⟩ := advance_of_finishStep hr (fun v hv hr => (finishStore_running hv hr).1) h
    exact ⟨congrArg Regs.npc (finishStore_running hv hr).2, rfl⟩
  · exact absurd hr.1 (Option.some_ne_none _)
  · obtain ⟨rfl, rfl⟩ := Prod.mk.inj (Except.ok.inj (hd.symm.trans hd'))
    obtain ⟨-, live, pending, -⟩ := decodeAt_frame hd
    have still (v) (hv : execLeaf inst u.clearZero = .next v) : v.pendingStore = none := by
      obtain ⟨w, hw, fixed⟩ := execLeaf_fixes inst u.clearZero
      obtain rfl := Host.Outcome.next.inj (hw.symm.trans hv)
      obtain ⟨-, -, -, -, pending'⟩ := fixed.thread
      exact pending'.trans (pending.trans hp)
    obtain ⟨v, hv, rfl⟩ := advance_of_finishStep hr (fun v hv _ => still v hv) h
    exact ⟨(execLeaf_npc hv hbf hbt).trans (congrArg Regs.npc live :), rfl⟩

/-! ## Cell 0 -/

/-- A cell written twice holds the second value. -/
@[simp] theorem Regs.setX_setX (r : Regs) (i : Reg) (v w : Word) : (r.setX i v).setX i w = r.setX i w := by
  simp [Regs.setX]

/-- A decode that succeeds reads no general register (R8). -/
theorem decode_setReg {inst : StaticInst} (i : Reg) (v : Word) (h : s.decode = .ok (inst, u)) :
    (s.setReg i v).decode = .ok (inst, u.setReg i v) := by
  obtain ⟨rfl, hit⟩ | ⟨miss, fetch, rfl, rfl⟩ := decodeAt_ok h
  · exact decodeAt_hit hit
  · exact decodeAt_miss miss fetch

/-- Settles O54: the decode does not read cell 0, and it is zeroed before the execution. -/
theorem cellZeroIsInvisible : Obligations.CellZeroIsInvisible := by
  intro s v ⟨hf, he⟩ hsch hp hd
  rw [step_eq_stepThread hf he hsch, step_eq_stepThread (s := s.setReg 0 v) hf he hsch]
  by_cases hh : s.haltPc = some s.live.pc
  · simp [stepWith, hp, hh]
  · cases h : s.decode with
    | error f => exact absurd h (hd f)
    | ok r =>
      obtain ⟨inst, u⟩ := r
      have zeroed : (u.setReg 0 v).clearZero = u.clearZero := congrArg u.setLive (Regs.setX_setX _ _ _ _)
      calc
        stepThread (s.setReg 0 v) = finishStep (execLeaf inst (u.setReg 0 v).clearZero) :=
          stepWith_decoded hp hh (decode_setReg 0 v h)
        _ = finishStep (execLeaf inst u.clearZero) := by rw [zeroed]
        _ = stepThread s := (stepWith_decoded hp hh h).symm

end Sys2Proof.Machine
end

section
/-! PROOFS. No instruction reads the mode or the snapshot (R41). -/

namespace Sys2Proof.Machine

/-- The state with another mode and another snapshot. -/
def State.withMode (b : Bool) (r : Regs) (s : State) : State := { s with isSpeculative := b, shadow := r }

/-- A change made to a next state. -/
def mapNext (g : State → State) : Res → Res
  | .next s => .next (g s)
  | .fault f => .fault f
  | .refused r => .refused r

variable {b : Bool} {r : Regs} {s : State}

/-! ## The operations that test something first -/

/-- An access tests the mapping and the pc alone. -/
theorem accessing_withMode {a : Word} {n : Nat} {k k' : State → Res}
    (hk : k' ((s.setEa a).withMode b r) = mapNext (State.withMode b r) (k (s.setEa a))) :
    (s.withMode b r).accessing a n k' = mapNext (State.withMode b r) (s.accessing a n k) := by
  have fault : (s.withMode b r).accessFault a n = s.accessFault a n := accessFault_congr rfl rfl
  unfold State.accessing
  rw [fault]
  split
  · rfl
  · exact hk

theorem unlessClash_withMode {clash : Bool} {mode : Config.LinkClash} {mnemonic : String} {k k' : Res}
    (hk : k' = mapNext (State.withMode b r) k) :
    unlessClash clash mode mnemonic (s.withMode b r) k' =
      mapNext (State.withMode b r) (unlessClash clash mode mnemonic s k) := by
  subst hk
  cases clash <;> cases mode <;> rfl

theorem hostBytes_withMode (a : Word) (n : Nat) : (s.withMode b r).hostBytes a n = s.hostBytes a n := by
  induction n generalizing a with
  | zero => rfl
  | succ n ih =>
    have fault : (s.withMode b r).accessFault a 1 = s.accessFault a 1 := accessFault_congr rfl rfl
    unfold State.hostBytes
    rw [fault, ih]
    rfl

theorem firstAccessFault_withMode (l : List (Word × Nat)) :
    (s.withMode b r).firstAccessFault l = s.firstAccessFault l := by
  induction l with
  | nil => rfl
  | cons p rest ih =>
    have fault : (s.withMode b r).accessFault p.1 p.2 = s.accessFault p.1 p.2 := accessFault_congr rfl rfl
    unfold State.firstAccessFault
    rw [fault, ih]

theorem hostWriteTo_withMode {append : State → List Byte → State}
    (ha : ∀ bytes, append (s.withMode b r) bytes = (append s bytes).withMode b r) :
    hostWriteTo append (s.withMode b r) = mapNext (State.withMode b r) (hostWriteTo append s) := by
  have bytes : (s.withMode b r).hostBytes ((s.withMode b r).syscallArg 1) ((s.withMode b r).syscallArg 2).toNat =
      s.hostBytes (s.syscallArg 1) (s.syscallArg 2).toNat := hostBytes_withMode _ _
  unfold hostWriteTo
  rw [bytes]
  cases s.hostBytes (s.syscallArg 1) (s.syscallArg 2).toNat with
  | error f => rfl
  | ok written =>
    dsimp only
    rw [ha]
    rfl

theorem hostCall_withMode (n : Word) : hostCall n (s.withMode b r) = mapNext (State.withMode b r) (hostCall n s) := by
  have arg : (s.withMode b r).syscallArg 0 = s.syscallArg 0 := rfl
  unfold hostCall
  split
  case h_3 =>
    unfold hostWrite
    rw [arg]
    split_ifs
    · exact hostWriteTo_withMode fun _ => rfl
    · exact hostWriteTo_withMode fun _ => rfl
    · rfl
  all_goals rfl

theorem hostAnswered_withMode (answer : HostAnswer) (rest : List HostAnswer) (n : Word) :
    hostAnswered answer rest n (s.withMode b r) = mapNext (State.withMode b r) (hostAnswered answer rest n s) := by
  unfold hostAnswered
  split
  case h_3 e =>
    rw [firstAccessFault_withMode]
    split <;> rfl
  all_goals rfl

theorem execSyscall_withMode (code : BitVec 20) :
    execSyscall code (s.withMode b r) = mapNext (State.withMode b r) (execSyscall code s) := by
  have answers : (s.withMode b r).hostAnswers = s.hostAnswers := rfl
  unfold execSyscall
  rw [answers]
  split
  · exact hostCall_withMode _
  · exact hostAnswered_withMode _ _ _

theorem branchIf_withMode (c : Bool) (offset : BitVec 16) :
    branchIf c offset (s.withMode b r) = mapNext (State.withMode b r) (branchIf c offset s) := by
  cases c <;> rfl

theorem branchLikelyIf_withMode (c : Bool) (offset : BitVec 16) :
    branchLikelyIf c offset (s.withMode b r) = mapNext (State.withMode b r) (branchLikelyIf c offset s) := by
  cases c <;> rfl

theorem linkThenBranchIf_withMode (c : Bool) (offset : BitVec 16) :
    linkThenBranchIf c offset (s.withMode b r) = mapNext (State.withMode b r) (linkThenBranchIf c offset s) := by
  cases c <;> rfl

theorem warnedWrite_withMode (mnemonic : String) (d : Reg) (n : Int) :
    warnedWrite mnemonic d n (s.withMode b r) = mapNext (State.withMode b r) (warnedWrite mnemonic d n s) := by
  unfold warnedWrite State.warnOverflow
  split_ifs <;> rfl

theorem trapIf_withMode (c : Bool) (mnemonic : String) :
    trapIf c mnemonic (s.withMode b r) = mapNext (State.withMode b r) (trapIf c mnemonic s) := by
  have params : (s.withMode b r).params = s.params := rfl
  unfold trapIf
  rw [params]
  cases c <;> split <;> rfl

theorem execSync_withMode (stype : BitVec 5) :
    execSync stype (s.withMode b r) = mapNext (State.withMode b r) (execSync stype s) := by
  have params : (s.withMode b r).params = s.params := rfl
  unfold execSync
  rw [params]
  split <;> rfl

theorem ungated_withMode (mnemonic : String) :
    ungated mnemonic (s.withMode b r) = mapNext (State.withMode b r) (ungated mnemonic s) := by
  have params : (s.withMode b r).params = s.params := rfl
  unfold ungated
  rw [params]
  split <;> rfl

theorem divideByZero_withMode (mnemonic : String) :
    divideByZero mnemonic (s.withMode b r) = mapNext (State.withMode b r) (divideByZero mnemonic s) := by
  have params : (s.withMode b r).params = s.params := rfl
  unfold divideByZero
  rw [params]
  split <;> rfl

theorem divideOverflow_withMode :
    divideOverflow (s.withMode b r) = mapNext (State.withMode b r) (divideOverflow s) := by
  have params : (s.withMode b r).params = s.params := rfl
  unfold divideOverflow
  rw [params]
  split <;> rfl

theorem execDiv_withMode (rs rt : Reg) :
    execDiv rs rt (s.withMode b r) = mapNext (State.withMode b r) (execDiv rs rt s) := by
  have reg (i : Reg) : (s.withMode b r).reg i = s.reg i := rfl
  simp only [execDiv, reg]
  split_ifs
  · exact divideByZero_withMode _
  · exact divideOverflow_withMode
  · rfl

theorem execDivu_withMode (rs rt : Reg) :
    execDivu rs rt (s.withMode b r) = mapNext (State.withMode b r) (execDivu rs rt s) := by
  have reg (i : Reg) : (s.withMode b r).reg i = s.reg i := rfl
  simp only [execDivu, reg]
  split_ifs
  · exact divideByZero_withMode _
  · rfl

theorem execCfc1_withMode (rt fs : Reg) :
    execCfc1 rt fs (s.withMode b r) = mapNext (State.withMode b r) (execCfc1 rt fs s) := by
  unfold execCfc1
  split_ifs
  · rfl
  · exact ungated_withMode _

theorem execCtc1_withMode (rt fs : Reg) :
    execCtc1 rt fs (s.withMode b r) = mapNext (State.withMode b r) (execCtc1 rt fs s) := by
  unfold execCtc1
  split_ifs
  · rfl
  · exact ungated_withMode _

theorem writeSingle_withMode (c : Config.FpCall) (fd : Reg) (o : Option Nat) :
    writeSingle c fd o (s.withMode b r) = mapNext (State.withMode b r) (writeSingle c fd o s) := by
  have params : (s.withMode b r).params = s.params := rfl
  cases o
  case some => rfl
  case none =>
    simp only [writeSingle, params]
    split <;> rfl

theorem writeDouble_withMode (c : Config.FpCall) (fd : Reg) (o : Option Nat) :
    writeDouble c fd o (s.withMode b r) = mapNext (State.withMode b r) (writeDouble c fd o s) := by
  have params : (s.withMode b r).params = s.params := rfl
  cases o
  case some => rfl
  case none =>
    simp only [writeDouble, params]
    split <;> rfl

theorem writeInt32_withMode (c : Config.FpCall) (fd : Reg) (o : Option Int) :
    writeInt32 c fd o (s.withMode b r) = mapNext (State.withMode b r) (writeInt32 c fd o s) := by
  have params : (s.withMode b r).params = s.params := rfl
  cases o
  case some => rfl
  case none =>
    simp only [writeInt32, params]
    split <;> rfl

theorem writeInt64_withMode (c : Config.FpCall) (fd : Reg) (o : Option Int) :
    writeInt64 c fd o (s.withMode b r) = mapNext (State.withMode b r) (writeInt64 c fd o s) := by
  have params : (s.withMode b r).params = s.params := rfl
  cases o
  case some => rfl
  case none =>
    simp only [writeInt64, params]
    split <;> rfl

/-! ## Every instruction -/

/-- Another mode and another snapshot change no instruction's result but for themselves. Where the instruction tests
nothing, both sides are the same updates. -/
theorem exec_withMode (i : Instr) : exec i (s.withMode b r) = mapNext (State.withMode b r) (exec i s) := by
  cases i
  case syscall code => exact execSyscall_withMode code
  case sync stype => exact execSync_withMode stype
  case add | sub | addi => exact warnedWrite_withMode _ _ _
  case div rs rt => exact execDiv_withMode rs rt
  case divu rs rt => exact execDivu_withMode rs rt
  case tge | tgeu | tlt | tltu | teq | tne | tgei | tgeiu | tlti | tltiu | teqi | tnei => exact trapIf_withMode _ _
  case beq | bne | blez | bgtz | bltz | bgez | bc1f | bc1t => exact branchIf_withMode _ _
  case bc1fl | bc1tl => exact branchLikelyIf_withMode _ _
  case bltzal | bgezal => exact unlessClash_withMode (linkThenBranchIf_withMode _ _)
  case jalr => exact unlessClash_withMode rfl
  case cfc1 rt fs => exact execCfc1_withMode rt fs
  case ctc1 rt fs => exact execCtc1_withMode rt fs
  case addS | subS | mulS | divS | sqrtS | cvtSD => exact writeSingle_withMode _ _ _
  case addD | subD | mulD | divD | sqrtD | cvtDS => exact writeDouble_withMode _ _ _
  case cvtWS | cvtWD => exact writeInt32_withMode _ _ _
  case cvtLS | cvtLD => exact writeInt64_withMode _ _ _
  case lb | lbu | lh | lhu | lw | ll | lwl | lwr | lwc1 | ldc1 | sb | sh | sw | swl | swr | sc | swc1 | sdc1 =>
    dsimp only [exec, execLb, execLbu, execLh, execLhu, execLw, execLl, loadReg, execLwl, execLwr, loadPartial, execLwc1,
      execLdc1, execSb, execSh, execSw, execSwc1, execSdc1, storeMem, execSwl, execSwr, storePartial, execSc]
    exact accessing_withMode rfl
  all_goals rfl

/-- Settles O47: the next state of one run is the other's, mode and snapshot apart. -/
theorem speculationIsInvisible : Obligations.SpeculationIsInvisible := by
  intro s t i b r h
  calc
    exec i (s.withMode b r) = mapNext (State.withMode b r) (exec i s) := exec_withMode i
    _ = mapNext (State.withMode b r) (.next t) := by rw [h]

end Sys2Proof.Machine
end

section
/-! PROOFS. The launch's register values, the float views, and the float loads and stores (R33 to R35, R47, R62 to R64). -/

namespace Sys2Proof.Machine

/-! ## Reset -/

/-- Every register of a set of zeros is 0, and every float word. -/
theorem getX_atEntry (entry : Word) (i : Reg) : (Regs.atEntry entry).getX i = 0 := by
  simp [Regs.getX, Regs.atEntry]

theorem getFw_atEntry (entry : Word) (i : Reg) : (Regs.atEntry entry).getFw i = 0 := by
  simp [Regs.getFw, Regs.atEntry]

theorem getX_zero (i : Reg) : Regs.zero.getX i = 0 := by simp [Regs.getX, Regs.zero]

theorem getFw_zero (i : Reg) : Regs.zero.getFw i = 0 := by simp [Regs.getFw, Regs.zero]

/-- A thread of a launch that sets no register starts from the reset values at its entry (R47, R401). -/
theorem LaunchThread.registers_of_nil {t : LaunchThread} (h : t.regs = []) : t.registers = Regs.atEntry t.entry := by
  rw [LaunchThread.registers, h]
  rfl

/-- Settles O6, by the reset values of the registers and of the snapshot. -/
theorem resetValues : Obligations.ResetValues := by
  intro l zero fresh empty
  have atEntry (entry : Word) : fresh (Regs.atEntry entry) Regs.zero false entry :=
    ⟨⟨getX_atEntry entry, getFw_atEntry entry, rfl, rfl, rfl, rfl⟩, rfl, rfl, rfl, rfl,
      ⟨getX_zero, getFw_zero, rfl, rfl, rfl, rfl⟩, rfl, rfl, rfl⟩
  have launched {t : LaunchThread} (h : t.regs = []) : fresh t.registers Regs.zero false t.entry :=
    t.registers_of_nil h ▸ atEntry t.entry
  exact ⟨atEntry _, ⟨rfl, rfl, rfl⟩, launched, fun t ht h => ⟨List.mem_map_of_mem ht, launched h⟩, rfl, rfl, rfl⟩

/-! ## The pairs of float words -/

/-- The even word of a pair (R34). -/
theorem pairLow_toNat (i : Reg) : (pairLow i).toNat = 2 * (i.toNat / 2) := by
  revert i; decide

/-- The odd word of a pair (R34). -/
theorem pairHigh_toNat (i : Reg) : (pairHigh i).toNat = 2 * (i.toNat / 2) + 1 := by
  revert i; decide

/-- The two fields of a pair name the same words. -/
theorem pair_eq {i j : Reg} (h : i.toNat / 2 = j.toNat / 2) : pairLow i = pairLow j ∧ pairHigh i = pairHigh j := by
  simp only [← BitVec.toNat_inj, pairLow_toNat, pairHigh_toNat, h, and_self]

/-- A word of another pair is neither word of this one. -/
theorem ne_pair {i k : Reg} (h : i.toNat / 2 ≠ k.toNat / 2) : k ≠ pairLow i ∧ k ≠ pairHigh i := by
  simp only [ne_eq, ← BitVec.toNat_inj, pairLow_toNat, pairHigh_toNat]
  omega

/-- A float word read after a write of another one. -/
theorem fw_setFw_of_ne {i k : Reg} (s : State) (v : Word) (h : k ≠ i) : (s.setFw i v).fw k = s.fw k :=
  Regs.getFw_setFw_ne s.live i k v h

/-- A write of a pair leaves the words of the others (R35). -/
theorem fw_setFl_of_ne {i k : Reg} (s : State) (v : DWord) (h : i.toNat / 2 ≠ k.toNat / 2) :
    (s.setFl i v).fw k = s.fw k := by
  obtain ⟨hl, hh⟩ := ne_pair h
  rw [fw_setFl, if_neg hh, if_neg hl]

/-- The low half of a doubleword. -/
theorem extractLsb'_low (v : DWord) : v.extractLsb' 0 32 = v.setWidth 32 := by
  apply BitVec.eq_of_toNat_eq
  simp

/-- The high half of a doubleword. -/
theorem extractLsb'_high (v : DWord) : v.extractLsb' 32 32 = (v >>> 32).setWidth 32 := by
  apply BitVec.eq_of_toNat_eq
  simp

/-- Settles O8, by the words a pair is made of and what a write of one reads back. -/
theorem floatViewsAlias : Obligations.FloatViewsAlias := by
  intro s i j v u
  have hl := pairLow_toNat i
  have hh := pairHigh_toNat i
  refine ⟨hl, hh, ?_, fun h => ?_, fun h => ⟨fw_setFl_of_ne s v h, ?_⟩, ?_, ?_, fun h => ?_, fun h => ?_⟩
  · rw [State.fl, BitVec.toNat_append, ← Nat.shiftLeft_add_eq_or_of_lt (s.fw (pairLow i)).isLt, Nat.shiftLeft_eq]
  · obtain ⟨el, eh⟩ := pair_eq h
    calc
      (s.setFl i v).fl j = (s.setFl i v).fl i := by simp only [State.fl, el, eh]
      _ = v := fl_setFl_self s i v
  · have low : i.toNat / 2 ≠ (pairLow j).toNat / 2 := by rw [pairLow_toNat]; omega
    have high : i.toNat / 2 ≠ (pairHigh j).toNat / 2 := by rw [pairHigh_toNat]; omega
    simp only [State.fl, fw_setFl_of_ne s v low, fw_setFl_of_ne s v high]
  · rw [fw_setFl, if_neg (pairLow_ne_pairHigh i), if_pos rfl, extractLsb'_low]
  · rw [fw_setFl, if_pos rfl, extractLsb'_high]
  · have odd : pairHigh i = i := BitVec.eq_of_toNat_eq (by omega)
    have even : pairLow i ≠ i := fun e => pairLow_ne_pairHigh i (e.trans odd.symm)
    calc
      (s.setFw i u).fl i = (s.setFw i u).fw i ++ (s.setFw i u).fw (pairLow i) := by rw [State.fl, odd]
      _ = u ++ s.fw (pairLow i) := by rw [fw_setFw_self, fw_setFw_of_ne s u even]
  · have even : pairLow i = i := BitVec.eq_of_toNat_eq (by omega)
    have odd : pairHigh i ≠ i := fun e => pairLow_ne_pairHigh i (even.trans e.symm)
    calc
      (s.setFw i u).fl i = (s.setFw i u).fw (pairHigh i) ++ (s.setFw i u).fw i := by rw [State.fl, even]
      _ = s.fw (pairHigh i) ++ u := by rw [fw_setFw_self, fw_setFw_of_ne s u odd]

/-! ## Words in memory -/

/-- The address of a byte within a word. -/
theorem eq_of_toNat_lt_four {d : Word} (h : d.toNat < 4) : d = 0 ∨ d = 1 ∨ d = 2 ∨ d = 3 := by bv_omega

/-- Byte `d` of a word stands `d` bytes past its address, and every other byte is as before (R63, R64). -/
theorem Memory.byteAt_setWord_add (m : Memory) (a w d : Word) :
    (m.setWord a w).byteAt (a + d) = if d.toNat < 4 then w.extractLsb' (8 * d.toNat) 8 else m.byteAt (a + d) := by
  have at_iff (k : Word) : a + d = a + k ↔ d = k := add_right_inj a
  have at_zero : a + d = a ↔ d = 0 := add_eq_left
  simp only [Memory.byteAt_setWord, at_iff, at_zero]
  by_cases h : d.toNat < 4
  · rw [if_pos h]
    obtain rfl | rfl | rfl | rfl := eq_of_toNat_lt_four h <;> rfl
  · have past (k : Word) (hk : k.toNat < 4) : d ≠ k := fun e => h (e ▸ hk)
    rw [if_neg h, if_neg (past 3 (by decide)), if_neg (past 2 (by decide)), if_neg (past 1 (by decide)),
      if_neg (past 0 (by decide))]

/-- Byte `i` of a word read is the byte `i` past its address (R62, R64). -/
theorem Memory.extractLsb'_wordAt (m : Memory) (a : Word) {i : Nat} (h : i < 4) :
    (m.wordAt a).extractLsb' (8 * i) 8 = m.byteAt (a + BitVec.ofNat 32 i) := by
  obtain rfl | rfl | rfl | rfl : i = 0 ∨ i = 1 ∨ i = 2 ∨ i = 3 := by omega
  · exact (BitVec.extractLsb'_append_eq_right).trans (congrArg m.byteAt (BitVec.add_zero a).symm)
  · exact (BitVec.extractLsb'_append_eq_of_le (by decide)).trans BitVec.extractLsb'_append_eq_right
  · exact ((BitVec.extractLsb'_append_eq_of_le (by decide)).trans
      (BitVec.extractLsb'_append_eq_of_le (by decide))).trans BitVec.extractLsb'_append_eq_right
  · exact (((BitVec.extractLsb'_append_eq_of_le (by decide)).trans
      (BitVec.extractLsb'_append_eq_of_le (by decide))).trans
      (BitVec.extractLsb'_append_eq_of_le (by decide))).trans BitVec.extractLsb'_eq_self

/-- A byte of the high half of a doubleword. -/
theorem extractLsb'_extractLsb'_high (v : DWord) {k : Nat} (h : k + 8 ≤ 32) :
    (v.extractLsb' 32 32).extractLsb' k 8 = v.extractLsb' (32 + k) 8 := by
  apply BitVec.eq_of_getLsbD_eq
  intro j hj
  have inside : k + j < 32 := by omega
  simp only [BitVec.getLsbD_extractLsb', inside, decide_true, Bool.true_and, Nat.add_assoc]

/-- Byte `d` of a doubleword stands `d` bytes past its address, and every other byte is as before (R63, R64). -/
theorem Memory.byteAt_setDouble_add (m : Memory) (a d : Word) (v : DWord) :
    (m.setDouble a v).byteAt (a + d) = if d.toNat < 8 then v.extractLsb' (8 * d.toNat) 8 else m.byteAt (a + d) := by
  have high : a + d = a + 4 + (d - 4) := by rw [add_assoc, add_sub_cancel]
  rw [Memory.setDouble, high, Memory.byteAt_setWord_add, ← high, Memory.byteAt_setWord_add]
  by_cases low : d.toNat < 4
  · have past : ¬(d - 4).toNat < 4 := by bv_omega
    rw [if_neg past, if_pos low, if_pos (by omega), BitVec.extractLsb'_extractLsb'_of_le (by omega)]
  · by_cases inside : d.toNat < 8
    · have off : (d - 4).toNat = d.toNat - 4 := by bv_omega
      have pos : 32 + 8 * (d.toNat - 4) = 8 * d.toNat := by omega
      rw [off, if_pos (by omega), if_pos inside, extractLsb'_extractLsb'_high v (by omega), pos]
    · have past : ¬(d - 4).toNat < 4 := by bv_omega
      rw [if_neg past, if_neg low, if_neg inside]

/-! ## Float loads and stores -/

variable {s : State}

/-- An accessible access does not fault (R62, R63). -/
theorem accessFault_of_accessible {a : Word} {n : Nat} (h : s.accessible a n) : s.accessFault a n = none := by
  obtain ⟨aligned, mapped⟩ := h
  simp [State.accessFault, aligned, rangeMapped_iff.2 mapped]

/-- The frame of `ea` written. -/
theorem onlyChanges_setEa (s : State) (a : Word) : OnlyChanges [.ea] s (s.setEa a) := by
  constructor <;> simp [State.reg, State.fw]

/-- The frame of memory written in the `n` bytes from an address. -/
theorem onlyChanges_setMem {m : Memory} {a : Word} {n : Nat}
    (h : ∀ d : Word, ¬d.toNat < n → m.byteAt (a + d) = s.mem.byteAt (a + d)) :
    OnlyChanges [.mem a n] s (s.setMem m) := by
  constructor
  case mem =>
    intro b hb
    have outside := h (b - a) (hb a n List.mem_cons_self)
    rwa [add_sub_cancel] at outside
  all_goals simp [State.reg, State.fw]

/-- The frame of a store: `ea` and the bytes stored. -/
theorem onlyChanges_store {m : Memory} {a : Word} {n : Nat}
    (h : ∀ d : Word, ¬d.toNat < n → m.byteAt (a + d) = s.mem.byteAt (a + d)) :
    OnlyChanges [.mem a n, .ea] s ((s.setEa a).setMem m) :=
  ((onlyChanges_setEa s a).mono (by simp)).trans
    ((onlyChanges_setMem (s := s.setEa a) h).mono (by simp))

/-! An access that checks out writes `ea`, and moves its bits (R241, R253, R254, R261, R262). -/

theorem execLwc1_ok {ft base : Reg} {offset : BitVec 16} (h : s.accessible (s.effAddr base offset) 4) :
    execLwc1 ft base offset s =
      .next ((s.setEa (s.effAddr base offset)).setFw ft (s.mem.wordAt (s.effAddr base offset))) := by
  unfold execLwc1
  exact accessing_ok (accessFault_of_accessible h)

theorem execLdc1_ok {ft base : Reg} {offset : BitVec 16} (h : s.accessible (s.effAddr base offset) 8) :
    execLdc1 ft base offset s =
      .next ((s.setEa (s.effAddr base offset)).setFl ft (s.mem.doubleAt (s.effAddr base offset))) := by
  unfold execLdc1
  exact accessing_ok (accessFault_of_accessible h)

theorem execSwc1_ok {ft base : Reg} {offset : BitVec 16} (h : s.accessible (s.effAddr base offset) 4) :
    execSwc1 ft base offset s =
      .next ((s.setEa (s.effAddr base offset)).setMem (s.mem.setWord (s.effAddr base offset) (s.fw ft))) := by
  unfold execSwc1 storeMem
  exact accessing_ok (accessFault_of_accessible h)

theorem execSdc1_ok {ft base : Reg} {offset : BitVec 16} (h : s.accessible (s.effAddr base offset) 8) :
    execSdc1 ft base offset s =
      .next ((s.setEa (s.effAddr base offset)).setMem (s.mem.setDouble (s.effAddr base offset) (s.fl ft))) := by
  unfold execSdc1 storeMem
  exact accessing_ok (accessFault_of_accessible h)

/-- The words of a pair after a doubleword of memory is written to it: the word at the lower address is low (R34, R64). -/
theorem fw_setFl_doubleAt (s : State) (i : Reg) (m : Memory) (a : Word) :
    (s.setFl i (m.doubleAt a)).fw (pairLow i) = m.wordAt a ∧
      (s.setFl i (m.doubleAt a)).fw (pairHigh i) = m.wordAt (a + 4) := by
  constructor
  · rw [fw_setFl, if_neg (pairLow_ne_pairHigh i), if_pos rfl]
    exact BitVec.extractLsb'_append_eq_right
  · rw [fw_setFl, if_pos rfl]
    exact BitVec.extractLsb'_append_eq_left

/-- Settles O26, by the bytes of the word or of the two words that each access moves. -/
theorem floatLoadsAndStores : Obligations.FloatLoadsAndStores := by
  intro s ft base offset a
  have small {i : Nat} (h : i < 8) : (BitVec.ofNat 32 i).toNat = i := by
    rw [BitVec.toNat_ofNat]; omega
  have next (i : Nat) : a + BitVec.ofNat 32 (4 + i) = a + 4 + BitVec.ofNat 32 i := by
    rw [BitVec.ofNat_add, ← add_assoc]; rfl
  refine ⟨fun h => ⟨⟨_, execLwc1_ok h, fun i hi => ?_, rfl, ?_⟩, ⟨_, execSwc1_ok h, fun i hi => ?_, rfl, ?_⟩⟩,
    fun h => ⟨⟨_, execLdc1_ok h, fun i hi => ?_, rfl, ?_⟩, ⟨_, execSdc1_ok h, fun i hi => ?_, rfl, ?_⟩⟩⟩
  · rw [fw_setFw_self, Memory.extractLsb'_wordAt _ _ hi]
  · exact ((onlyChanges_setEa s a).mono (by simp)).trans ((onlyChanges_setFw _ ft _).mono (by simp))
  · show (s.mem.setWord a (s.fw ft)).byteAt (a + BitVec.ofNat 32 i) = _
    rw [Memory.byteAt_setWord_add, small (by omega), if_pos hi]
  · exact onlyChanges_store fun d hd => (Memory.byteAt_setWord_add ..).trans (if_neg hd)
  · obtain ⟨low, high⟩ := fw_setFl_doubleAt (s.setEa a) ft s.mem a
    rw [low, high, Memory.extractLsb'_wordAt _ _ hi, Memory.extractLsb'_wordAt _ _ hi, next]
    exact ⟨rfl, rfl⟩
  · exact ((onlyChanges_setEa s a).mono (by simp)).trans ((onlyChanges_setFl _ ft _).mono (by simp))
  · show (s.mem.setDouble a (s.fl ft)).byteAt (a + BitVec.ofNat 32 i) = _ ∧
      (s.mem.setDouble a (s.fl ft)).byteAt (a + BitVec.ofNat 32 (4 + i)) = _
    rw [Memory.byteAt_setDouble_add, Memory.byteAt_setDouble_add, small (i := i) (by omega),
      small (i := 4 + i) (by omega), if_pos (by omega), if_pos (by omega)]
    refine ⟨BitVec.extractLsb'_append_eq_of_add_le (by omega), (BitVec.extractLsb'_append_eq_of_le (by omega)).trans ?_⟩
    rw [Nat.mul_add, Nat.add_sub_cancel_left]
  · exact onlyChanges_store fun d hd => (Memory.byteAt_setDouble_add ..).trans (if_neg hd)

end Sys2Proof.Machine
end

section
/-! PROOFS. The bytes of memory, the checks of an access, and the stores of a general register (R62 to R66, R76, R255 to
R258). -/

namespace Sys2Proof.Machine

/-! ## Units of memory, byte by byte -/

/-- A halfword read is the sum of its bytes (R62). -/
theorem Memory.halfAt_toNat_eq_sum (m : Memory) (a : Word) :
    (m.halfAt a).toNat = ∑ i ∈ Finset.range 2, (m.byteAt (a + BitVec.ofNat 32 i)).toNat * 2 ^ (8 * i) := by
  simp [Memory.halfAt_toNat, Finset.sum_range_succ, Nat.shiftLeft_eq]

/-- A word read is the sum of its bytes (R62). -/
theorem Memory.wordAt_toNat_eq_sum (m : Memory) (a : Word) :
    (m.wordAt a).toNat = ∑ i ∈ Finset.range 4, (m.byteAt (a + BitVec.ofNat 32 i)).toNat * 2 ^ (8 * i) := by
  simp [Memory.wordAt_toNat, Finset.sum_range_succ, Nat.shiftLeft_eq]

/-- An address counted on from an address. -/
theorem add_ofNat_add (a : Word) (k i : Nat) :
    a + BitVec.ofNat 32 (k + i) = a + BitVec.ofNat 32 k + BitVec.ofNat 32 i := by
  rw [BitVec.ofNat_add, add_assoc]

/-- A doubleword read is the sum of its bytes: those of its low word, then those of its high word (R62, R64). -/
theorem Memory.doubleAt_toNat_eq_sum (m : Memory) (a : Word) :
    (m.doubleAt a).toNat = ∑ i ∈ Finset.range 8, (m.byteAt (a + BitVec.ofNat 32 i)).toNat * 2 ^ (8 * i) := by
  have next (i : Nat) : a + 4 + BitVec.ofNat 32 i = a + BitVec.ofNat 32 (4 + i) := (add_ofNat_add a 4 i).symm
  calc
    (m.doubleAt a).toNat = (m.wordAt a).toNat + (m.wordAt (a + 4)).toNat * 2 ^ 32 := by
      rw [Memory.doubleAt, BitVec.toNat_append, ← Nat.shiftLeft_add_eq_or_of_lt (m.wordAt a).isLt, Nat.shiftLeft_eq,
        Nat.add_comm]
    _ = _ := by
      rw [Finset.sum_range_add _ 4 4, Memory.wordAt_toNat_eq_sum, Memory.wordAt_toNat_eq_sum, Finset.sum_mul]
      refine congrArg _ (Finset.sum_congr rfl fun i _ => ?_)
      rw [next, Nat.mul_add, pow_add, Nat.mul_assoc, Nat.mul_comm (2 ^ (8 * i))]

/-- What a store of `n` bytes does: byte `i` of the value stands `i` bytes past its address, and every other byte is as
before (R63). -/
def Memory.Stores (m m' : Memory) (a : Word) (n : Nat) (byte : Nat → Byte) : Prop :=
  ∀ d : Word, m'.byteAt (a + d) = if d.toNat < n then byte d.toNat else m.byteAt (a + d)

variable {m m' : Memory} {a b : Word} {n : Nat} {byte : Nat → Byte}

/-- The bytes stored. -/
theorem Memory.Stores.inside (h : Memory.Stores m m' a n byte) {i : Nat} (hi : i < n) (hn : n ≤ 8) :
    m'.byteAt (a + BitVec.ofNat 32 i) = byte i := by
  have small : (BitVec.ofNat 32 i).toNat = i := by
    rw [BitVec.toNat_ofNat]; omega
  rw [h, small, if_pos hi]

/-- The bytes left alone. -/
theorem Memory.Stores.outside (h : Memory.Stores m m' a n byte) (hb : n ≤ (b - a).toNat) : m'.byteAt b = m.byteAt b := by
  have hd := h (b - a)
  rwa [add_sub_cancel, if_neg (by omega)] at hd

/-- A byte store (R63). -/
theorem Memory.stores_setByte (m : Memory) (a : Word) (byte : Nat → Byte) :
    Memory.Stores m (m.setByte a (byte 0)) a 1 byte := by
  intro d
  rw [Memory.byteAt_setByte]
  by_cases hd : d = 0
  · simp [hd]
  · have past : ¬d.toNat < 1 := by bv_omega
    rw [if_neg past, if_neg fun e => hd (add_eq_left.1 e)]

/-- A halfword store (R63). -/
theorem Memory.stores_setHalf (m : Memory) (a : Word) (v : BitVec 16) :
    Memory.Stores m (m.setHalf a v) a 2 fun i => v.extractLsb' (8 * i) 8 := by
  intro d
  have at_one : a + d = a + 1 ↔ d = 1 := add_right_inj a
  have at_zero : a + d = a ↔ d = 0 := add_eq_left
  simp only [Memory.byteAt_setHalf, at_one, at_zero]
  by_cases h1 : d = 1
  · simp [h1]
  · by_cases h0 : d = 0
    · simp [h0]
    · have past : ¬d.toNat < 2 := by bv_omega
      rw [if_neg past, if_neg h1, if_neg h0]

/-- A word store (R63). -/
theorem Memory.stores_setWord (m : Memory) (a v : Word) :
    Memory.Stores m (m.setWord a v) a 4 fun i => v.extractLsb' (8 * i) 8 :=
  Memory.byteAt_setWord_add m a v

/-- A doubleword store (R63, R64). -/
theorem Memory.stores_setDouble (m : Memory) (a : Word) (v : DWord) :
    Memory.Stores m (m.setDouble a v) a 8 fun i => v.extractLsb' (8 * i) 8 :=
  fun d => Memory.byteAt_setDouble_add m a d v

/-- Settles O9, by the sums of the reads and by what each store does to memory. -/
theorem memoryIsLittleEndian : Obligations.MemoryIsLittleEndian := by
  intro m a h w d b
  have half := m.stores_setHalf a h
  have word := m.stores_setWord a w
  have double := m.stores_setDouble a d
  exact ⟨m.halfAt_toNat_eq_sum a, m.wordAt_toNat_eq_sum a, m.doubleAt_toNat_eq_sum a,
    fun i hi => half.inside hi (by decide), fun i hi => word.inside hi (by decide), fun i hi => double.inside hi le_rfl,
    half.outside, word.outside, double.outside,
    fun wf => ⟨Memory.wf_setHalf a h wf, Memory.wf_setWord a w wf, Memory.wf_setDouble a d wf⟩⟩

/-! ## The checks of an access and of a fetch -/

variable {s t : State}

/-- A misaligned access faults so, whatever is mapped (R375). -/
theorem accessFault_misaligned (h : a.toNat % n ≠ 0) : s.accessFault a n = some (.dataMisaligned s.live.pc a) := if_pos h

/-- An aligned access of an unmapped byte faults unmapped (R62, R63). -/
theorem accessFault_unmapped (h : a.toNat % n = 0) (hm : ¬s.mappedBytes a n) :
    s.accessFault a n = some (.dataUnmapped s.live.pc a) := by
  have unmapped : s.rangeMapped a n = false := Bool.eq_false_iff.2 fun e => hm (rangeMapped_iff.1 e)
  simp [State.accessFault, h, unmapped]

/-- A misaligned fetch faults so, whatever is mapped (R66, R375). -/
theorem fetchFault_misaligned (h : a.toNat % 4 ≠ 0) : s.fetchFault a = some (.fetchMisaligned a) := if_pos h

/-- An aligned fetch of an unmapped byte faults unmapped (R66). -/
theorem fetchFault_unmapped (h : a.toNat % 4 = 0) (hm : ¬s.mappedBytes a 4) :
    s.fetchFault a = some (.fetchUnmapped a) := by
  have unmapped : s.rangeMapped a 4 = false := Bool.eq_false_iff.2 fun e => hm (rangeMapped_iff.1 e)
  simp [State.fetchFault, h, unmapped]

/-- A fetch of an accessible word does not fault (R66). -/
theorem fetchFault_of_accessible (h : s.accessible a 4) : s.fetchFault a = none := by
  obtain ⟨aligned, mapped⟩ := h
  simp [State.fetchFault, aligned, rangeMapped_iff.2 mapped]

/-- Settles O10, by the two checks of each in their order. -/
theorem accessChecks : Obligations.AccessChecks := by
  intro s a n _
  exact ⟨accessFault_misaligned, accessFault_unmapped, accessFault_of_accessible, fetchFault_misaligned,
    fetchFault_unmapped, fetchFault_of_accessible⟩

/-! ## Stores of a general register -/

/-- The frame of a general register written. -/
theorem onlyChanges_setReg (s : State) (i : Reg) (v : Word) : OnlyChanges [.x i] s (s.setReg i v) := by
  constructor
  case x => exact fun r hr => Regs.getX_setX_ne _ _ _ _ fun e => hr (e ▸ List.mem_singleton.2 rfl)
  all_goals simp [State.fw]

/-- A store whose access checks out writes `ea` and memory (R63, R241). -/
theorem storeMem_ok {store : Memory → Word → Memory} {base : Reg} {offset : BitVec 16}
    (h : s.accessible (s.effAddr base offset) n) :
    storeMem n store base offset s =
      .next ((s.setEa (s.effAddr base offset)).setMem (store s.mem (s.effAddr base offset))) := by
  unfold storeMem
  exact accessing_ok (accessFault_of_accessible h)

theorem execSb_ok {rt base : Reg} {offset : BitVec 16} (h : s.accessible (s.effAddr base offset) 1) :
    execSb rt base offset s = .next ((s.setEa (s.effAddr base offset)).setMem
      (s.mem.setByte (s.effAddr base offset) ((s.reg rt).extractLsb' 0 8))) := by
  unfold execSb
  exact storeMem_ok h

theorem execSh_ok {rt base : Reg} {offset : BitVec 16} (h : s.accessible (s.effAddr base offset) 2) :
    execSh rt base offset s = .next ((s.setEa (s.effAddr base offset)).setMem
      (s.mem.setHalf (s.effAddr base offset) ((s.reg rt).extractLsb' 0 16))) := by
  unfold execSh
  exact storeMem_ok h

theorem execSw_ok {rt base : Reg} {offset : BitVec 16} (h : s.accessible (s.effAddr base offset) 4) :
    execSw rt base offset s = .next ((s.setEa (s.effAddr base offset)).setMem
      (s.mem.setWord (s.effAddr base offset) (s.reg rt))) := by
  unfold execSw
  exact storeMem_ok h

/-- `sc` stores as `sw` does and then writes 1 (R76, R258). -/
theorem execSc_ok {rt base : Reg} {offset : BitVec 16} (h : s.accessible (s.effAddr base offset) 4) :
    execSc rt base offset s = .next (((s.setEa (s.effAddr base offset)).setMem
      (s.mem.setWord (s.effAddr base offset) (s.reg rt))).setReg rt 1) := by
  unfold execSc
  exact accessing_ok (accessFault_of_accessible h)

/-- A state after a store: its bytes, `ea`, and the frame. -/
theorem stored (e : Word) (h : Memory.Stores s.mem m' a n byte) (hn : n ≤ 8) :
    (∀ i < n, m'.byteAt (a + BitVec.ofNat 32 i) = byte i) ∧ ((s.setEa e).setMem m').live.ea = e ∧
      OnlyChanges [.mem a n, .ea] s ((s.setEa e).setMem m') :=
  ⟨fun _ hi => h.inside hi hn, rfl, ((onlyChanges_setEa s e).mono (by simp)).trans
    ((onlyChanges_setMem (s := s.setEa e) fun d hd => (h d).trans (if_neg hd)).mono (by simp))⟩

/-- The low bytes of the low halfword are those of the word. -/
theorem extractLsb'_extractLsb'_low (v : Word) {i : Nat} (h : i < 2) :
    (v.extractLsb' 0 16).extractLsb' (8 * i) 8 = v.extractLsb' (8 * i) 8 :=
  BitVec.extractLsb'_extractLsb'_of_le (by omega)

/-- Settles O27, by what each store does to memory. -/
theorem storeResults : Obligations.StoreResults := by
  intro s rt base offset a stores
  have sb := stored a (s.mem.stores_setByte a fun i => (s.reg rt).extractLsb' (8 * i) 8) (by decide)
  obtain ⟨bytes, ea, frame⟩ := stored a (s.mem.stores_setWord a (s.reg rt)) (by decide)
  obtain ⟨halfBytes, halfEa, halfFrame⟩ := stored a (s.mem.stores_setHalf a ((s.reg rt).extractLsb' 0 16)) (by decide)
  have sc : OnlyChanges [.mem a 4, .ea, .x rt] s _ :=
    (frame.mono (by simp)).trans ((onlyChanges_setReg _ rt 1).mono (by simp))
  exact ⟨fun h => ⟨_, execSb_ok h, sb⟩,
    fun h => ⟨_, execSh_ok h, fun i hi => (halfBytes i hi).trans (extractLsb'_extractLsb'_low _ hi), halfEa, halfFrame⟩,
    fun h => ⟨⟨_, execSw_ok h, bytes, ea, frame⟩, ⟨_, execSc_ok h, ⟨bytes, ea, sc⟩, Regs.getX_setX_self _ rt 1⟩⟩⟩

end Sys2Proof.Machine
end

section
/-! PROOFS. The partial-word stores, whole and as two accesses (R63, R68, R244, R259, R260). -/

namespace Sys2Proof.Machine

variable {s t u v : State}

/-! ## The merges, byte by byte -/

/-- Bit `i` of a mask of `n` low bits (R17). -/
theorem getLsbD_maskLow {n i : Nat} (hn : n ≤ 32) : (maskLow n).getLsbD i = decide (i < n) := by
  have value : (maskLow n).toNat = 2 ^ n - 1 := by
    obtain rfl | h := hn.eq_or_lt
    · rfl
    · have pow : 2 ^ n < 2 ^ 32 := Nat.pow_lt_pow_right (by decide) h
      have pos : 0 < 2 ^ n := Nat.two_pow_pos n
      simp [maskLow, BitVec.toNat_sub, Nat.shiftLeft_eq]
      omega
  rw [BitVec.getLsbD, value, Nat.testBit_two_pow_sub_one]

/-- Byte `k` of what `swl` stores: from `bo` down the top bytes of the register, above it memory's own (R259). -/
theorem extractLsb'_mergeSwl (w r : Word) {bo k : Nat} (hbo : bo < 4) (hk : k < 4) :
    (mergeSwl w r bo).extractLsb' (8 * k) 8 =
      if k ≤ bo then r.extractLsb' (8 * (3 - bo + k)) 8 else w.extractLsb' (8 * k) 8 := by
  apply BitVec.eq_of_getLsbD_eq
  intro j hj
  have inside : 8 * k + j < 32 := by omega
  rw [mergeSwl, BitVec.getLsbD_extractLsb', BitVec.getLsbD_or, BitVec.getLsbD_and, BitVec.getLsbD_ushiftRight,
    BitVec.getLsbD_shiftLeft, getLsbD_maskLow (by omega)]
  by_cases h : k ≤ bo
  · have low : 8 * k + j < 32 - (24 - 8 * bo) := by omega
    have pos : 24 - 8 * bo + (8 * k + j) = 8 * (3 - bo + k) + j := by omega
    simp [h, hj, low, pos]
  · have high : ¬8 * k + j < 32 - (24 - 8 * bo) := by omega
    have mask : 8 * k + j - (32 - (24 - 8 * bo)) < 24 - 8 * bo := by omega
    have past : 32 ≤ 24 - 8 * bo + (8 * k + j) := by omega
    simp [h, hj, inside, high, mask, BitVec.getLsbD_of_ge _ _ past]

/-- Byte `k` of what `swr` stores: from `bo` up the bottom bytes of the register, below it memory's own (R260). -/
theorem extractLsb'_mergeSwr (w r : Word) {bo k : Nat} (hbo : bo < 4) (hk : k < 4) :
    (mergeSwr w r bo).extractLsb' (8 * k) 8 =
      if bo ≤ k then r.extractLsb' (8 * (k - bo)) 8 else w.extractLsb' (8 * k) 8 := by
  apply BitVec.eq_of_getLsbD_eq
  intro j hj
  have inside : 8 * k + j < 32 := by omega
  rw [mergeSwr, BitVec.getLsbD_extractLsb', BitVec.getLsbD_or, BitVec.getLsbD_and, BitVec.getLsbD_shiftLeft,
    getLsbD_maskLow (by omega)]
  by_cases h : bo ≤ k
  · have high : ¬8 * k + j < 8 * bo := by omega
    have pos : 8 * k + j - 8 * bo = 8 * (k - bo) + j := by omega
    simp [h, hj, inside, high, pos]
  · have low : 8 * k + j < 8 * bo := by omega
    simp [h, hj, low]

/-! ## The aligned word -/

/-- The byte offset of an address (R244). -/
theorem byteOffset_eq (a : Word) : byteOffset a = a.toNat % 4 := by
  rw [byteOffset, BitVec.toNat_and]
  exact Nat.and_two_pow_sub_one_eq_mod a.toNat 2

/-- The word of an address starts at its multiple of 4, `byteOffset` bytes below it (R244). -/
theorem alignWord_toNat (a : Word) : (alignWord a).toNat = a.toNat - a.toNat % 4 := by
  have shifted : alignWord a = a >>> 2 <<< 2 := by
    rw [BitVec.shiftLeft_ushiftRight]; rfl
  rw [shifted, BitVec.toNat_shiftLeft, BitVec.toNat_ushiftRight, Nat.shiftLeft_eq, Nat.shiftRight_eq_div_pow]
  omega

/-- It is aligned. -/
theorem alignWord_aligned (a : Word) : (alignWord a).toNat % 4 = 0 := by
  rw [alignWord_toNat]; omega

/-- The word's start and the byte offset make the address. -/
theorem alignWord_add (a : Word) : alignWord a + BitVec.ofNat 32 (a.toNat % 4) = a := by
  apply BitVec.eq_of_toNat_eq
  rw [BitVec.toNat_add, alignWord_toNat, BitVec.toNat_ofNat]
  omega

/-- A byte of a word in memory, by its address. -/
theorem Memory.extractLsb'_wordAt_toNat (m : Memory) (a : Word) {d : Word} (h : d.toNat < 4) :
    (m.wordAt a).extractLsb' (8 * d.toNat) 8 = m.byteAt (a + d) := by
  rw [Memory.extractLsb'_wordAt m a h, BitVec.ofNat_toNat, BitVec.setWidth_eq]

/-- What `swl` does to memory: the top bytes of the register from the word's start up to the address (R259). -/
theorem Memory.stores_swl (m : Memory) (a r : Word) :
    Memory.Stores m (m.setWord (alignWord a) (mergeSwl (m.wordAt (alignWord a)) r (a.toNat % 4))) (alignWord a)
      (a.toNat % 4 + 1) fun k => r.extractLsb' (8 * (3 - a.toNat % 4 + k)) 8 := by
  intro d
  have hbo : a.toNat % 4 < 4 := Nat.mod_lt _ (by decide)
  rw [Memory.byteAt_setWord_add]
  by_cases word : d.toNat < 4
  · rw [if_pos word, extractLsb'_mergeSwl _ _ hbo word, Memory.extractLsb'_wordAt_toNat _ _ word]
    exact if_congr Nat.lt_succ_iff.symm rfl rfl
  · rw [if_neg word, if_neg (by omega)]

/-- What `swr` does to memory: the bottom bytes of the register from the address up to the word's end (R260). -/
theorem Memory.stores_swr (m : Memory) (a r : Word) :
    Memory.Stores m (m.setWord (alignWord a) (mergeSwr (m.wordAt (alignWord a)) r (a.toNat % 4))) a
      (4 - a.toNat % 4) fun k => r.extractLsb' (8 * k) 8 := by
  intro d
  have hbo : a.toNat % 4 < 4 := Nat.mod_lt _ (by decide)
  obtain ⟨e, he⟩ : ∃ e, e = BitVec.ofNat 32 (a.toNat % 4) + d := ⟨_, rfl⟩
  have start : a + d = alignWord a + e := by rw [he, ← add_assoc, alignWord_add]
  have off : e.toNat = (a.toNat % 4 + d.toNat) % 2 ^ 32 := by
    rw [he, BitVec.toNat_add, BitVec.toNat_ofNat]; omega
  rw [start, Memory.byteAt_setWord_add]
  by_cases word : e.toNat < 4
  · rw [if_pos word, extractLsb'_mergeSwr _ _ hbo word, Memory.extractLsb'_wordAt_toNat _ _ word]
    by_cases above : a.toNat % 4 ≤ e.toNat
    · have pos : e.toNat - a.toNat % 4 = d.toNat := by omega
      rw [if_pos above, if_pos (by omega), pos]
    · rw [if_neg above, if_neg (by omega)]
  · rw [if_neg word, if_neg (by omega)]

/-! ## The whole store -/

/-- The aligned word of a partial access is accessible where its bytes are mapped (R244). -/
theorem accessFault_alignWord {a : Word} (h : s.mappedBytes (alignWord a) 4) : s.accessFault (alignWord a) 4 = none :=
  accessFault_of_accessible ⟨alignWord_aligned a, h⟩

/-- A partial-word store whose word is mapped writes `ea` and the merged word (R244). -/
theorem storePartial_ok {merge : Word → Word → Nat → Word} {rt base : Reg} {offset : BitVec 16} {a : Word}
    (ha : s.effAddr base offset = a) (h : s.mappedBytes (alignWord a) 4) :
    storePartial merge rt base offset s = .next ((s.setEa (alignWord a)).setMem
      (s.mem.setWord (alignWord a) (merge (s.mem.wordAt (alignWord a)) (s.reg rt) (a.toNat % 4)))) := by
  subst ha
  unfold storePartial
  rw [← byteOffset_eq]
  exact accessing_ok (accessFault_alignWord h)

/-- Its first half writes `ea` and leaves that word pending (R68). -/
theorem beginStore_ok {merge : Word → Word → Nat → Word} {rt base : Reg} {offset : BitVec 16} {a : Word}
    (ha : s.effAddr base offset = a) (h : s.mappedBytes (alignWord a) 4) :
    beginStore merge rt base offset s = .next ((s.setEa (alignWord a)).setPendingStore
      (some ⟨alignWord a, merge (s.mem.wordAt (alignWord a)) (s.reg rt) (a.toNat % 4)⟩)) := by
  subst ha
  unfold beginStore
  rw [← byteOffset_eq]
  exact accessing_ok (accessFault_alignWord h)

/-- The first half, whatever is scheduled after it, leaves pending the word that the whole store would store. -/
theorem beginStore_of_storePartial {merge : Word → Word → Nat → Word} {rt base : Reg} {offset : BitVec 16} {a : Word}
    (rest : List Event) (ha : alignWord (s.effAddr base offset) = a) (h : s.mappedBytes a 4)
    (hv : storePartial merge rt base offset s = .next v) :
    beginStore merge rt base offset (s.setSchedule rest) =
      .next (((s.setEa a).setSchedule rest).setPendingStore (some ⟨a, v.mem.wordAt a⟩)) := by
  subst ha
  rw [storePartial_ok rfl h] at hv
  rw [beginStore_ok (s := s.setSchedule rest) rfl h, ← Host.Outcome.next.inj hv, State.setMem_mem,
    Memory.wordAt_setWord_self]
  rfl

/-- `swl` and `swr` of a mapped word, byte by byte (R259, R260). -/
theorem partialStores_complete (rt base : Reg) (offset : BitVec 16) {a : Word} {bo : Nat} (ha : s.effAddr base offset = a)
    (hbo : a.toNat % 4 = bo) (h : s.mappedBytes (alignWord a) 4) :
    Completes (.swl rt base offset) s (fun t =>
      (∀ j ≤ bo, t.mem.byteAt (a - BitVec.ofNat 32 j) = (s.reg rt).extractLsb' (8 * (3 - j)) 8) ∧
      t.live.ea = alignWord a ∧ OnlyChanges [.mem (alignWord a) (bo + 1), .ea] s t) ∧
    Completes (.swr rt base offset) s (fun t =>
      (∀ j, bo + j ≤ 3 → t.mem.byteAt (a + BitVec.ofNat 32 j) = (s.reg rt).extractLsb' (8 * j) 8) ∧
      t.live.ea = alignWord a ∧ OnlyChanges [.mem a (4 - bo), .ea] s t) := by
  subst hbo
  obtain ⟨leftBytes, left⟩ := stored (alignWord a) (s.mem.stores_swl a (s.reg rt)) (by omega)
  obtain ⟨rightBytes, right⟩ := stored (alignWord a) (s.mem.stores_swr a (s.reg rt)) (by omega)
  refine ⟨⟨_, storePartial_ok ha h, fun j hj => ?_, left⟩,
    ⟨_, storePartial_ok ha h, fun j hj => rightBytes j (by omega), right⟩⟩
  have down : a - BitVec.ofNat 32 j = alignWord a + BitVec.ofNat 32 (a.toNat % 4 - j) := by
    rw [sub_eq_iff_eq_add, ← add_ofNat_add, Nat.sub_add_cancel hj, alignWord_add]
  have pos : 3 - a.toNat % 4 + (a.toNat % 4 - j) = 3 - j := by omega
  rw [down, ← pos]
  exact leftBytes _ (by omega)

/-! ## The two halves as two steps -/

/-- A request to step up to the store, made to the thread about to step (R384, R390). -/
theorem step_runToStore {rest : List Event} (hs : s.running) (hsch : s.schedule = .runToStore s.tid :: rest) :
    step s = stepToStore (s.setSchedule rest) := by
  obtain ⟨hf, he⟩ := hs
  exact step_eq_serve hf he hsch (by simp [State.selectThread, Event.thread])

/-- No decode reads the schedule. -/
theorem decode_setSchedule {inst : StaticInst} (rest : List Event) (h : s.decode = .ok (inst, u)) :
    (s.setSchedule rest).decode = .ok (inst, u.setSchedule rest) := by
  obtain ⟨rfl, hit⟩ | ⟨miss, fetch, rfl, rfl⟩ := decodeAt_ok h
  · exact decodeAt_hit hit
  · exact decodeAt_miss miss fetch

/-- The first half of `swl` or `swr`: the word the whole instruction would store is pending. -/
theorem execLeafToStore_partial {w a : Word} {i : Instr} (rest : List Event)
    (hi : ∃ rt base offset, i = .swl rt base offset ∨ i = .swr rt base offset) (ha : s.accessOf i = some (a, 4))
    (hm : s.mappedBytes a 4) (hv : exec i s = .next v) :
    execLeafToStore ⟨w, .instr i⟩ (s.setSchedule rest) =
      .next (((s.setEa a).setSchedule rest).setPendingStore (some ⟨a, v.mem.wordAt a⟩)) := by
  obtain ⟨rt, base, offset, rfl | rfl⟩ := hi
  all_goals
    obtain ⟨ea, -⟩ := Prod.mk.inj (Option.some.inj ha)
    exact beginStore_of_storePartial rest ea hm hv

/-- The first half as a step: `ea` written, and the word pending (R68). -/
theorem step_runToStore_partial {w a : Word} {i : Instr} {rest : List Event}
    (hi : ∃ rt base offset, i = .swl rt base offset ∨ i = .swr rt base offset) (hs : s.running) (hp : s.pendingStore = none)
    (hh : s.haltPc ≠ some s.live.pc) (hsch : s.schedule = .runToStore s.tid :: rest)
    (hd : s.decode = .ok (⟨w, .instr i⟩, u)) (ha : (u.setReg 0 0).accessOf i = some (a, 4)) (hm : s.mappedBytes a 4)
    (hv : exec i (u.setReg 0 0) = .next v) :
    step s = .next ((((u.setReg 0 0).setEa a).setSchedule rest).setPendingStore (some ⟨a, v.mem.wordAt a⟩)) := by
  have mapped : (u.setReg 0 0).mappedBytes a 4 := by
    obtain ⟨rfl, -⟩ | ⟨-, -, -, rfl⟩ := decodeAt_ok hd <;> exact hm
  calc
    step s = finishStep (execLeafToStore ⟨w, .instr i⟩ ((u.setReg 0 0).setSchedule rest)) :=
      (step_runToStore hs hsch).trans (stepWith_decoded (s := s.setSchedule rest) hp hh (decode_setSchedule rest hd))
    _ = finishStep (.next _) := congrArg finishStep (execLeafToStore_partial rest hi ha mapped hv)
    _ = .next _ := finishStep_pending rfl

/-- The second half as a step: the word stored, the counters advanced (R28, R68). -/
theorem step_pending {p : PendingStore} (hs : s.running) (hsch : s.schedule = []) (hp : s.pendingStore = some p)
    (ha : s.accessible p.addr 4) :
    step s = .next (((s.setMem (s.mem.setWord p.addr p.value)).setPendingStore none).advance) := by
  obtain ⟨hf, he⟩ := hs
  obtain ⟨f, h, -⟩ | ⟨-, h⟩ := finishStore_cases p s
  · exact absurd (h.symm.trans (accessFault_of_accessible ha)) (Option.some_ne_none f)
  · rw [step_eq_stepThread hf he hsch, stepThread, stepWith_pending hp, h]
    exact finishStep_running hf he rfl

/-- Settles O28: the bytes that each merge keeps and stores, and the two halves of the store as two steps. -/
theorem partialStoreResults : Obligations.PartialStoreResults := by
  refine ⟨fun s rt base offset => partialStores_complete rt base offset rfl rfl,
    fun s u v i w a rest => step_runToStore_partial, fun s p hs hsch hp ha => ?_⟩
  have word := s.mem.stores_setWord p.addr p.value
  exact ⟨_, step_pending hs hsch hp ha, fun i hi => word.inside hi (by decide), fun a => word.outside, rfl⟩

end Sys2Proof.Machine
end

section
/-! PROOFS. The faults of a step, and the system calls (R62, R66, R71, R341, R358, R373, R391, R392). -/

namespace Sys2Proof.Machine

variable {s t u : State}

/-! ## The faults of a step -/

/-- The frame of a fault recorded. -/
theorem onlyChanges_recordFault (s : State) (f : Fault) : OnlyChanges [.faultRecord] s (s.recordFault f) := by
  constructor <;> simp [State.reg, State.fw, State.recordFault]

/-- A step whose fetch faults records the fault and changes nothing else (R66). -/
theorem step_fetchFault {f : Fault} (hs : s.running) (hsch : s.schedule = []) (hp : s.pendingStore = none)
    (hh : s.haltPc ≠ some s.live.pc) (miss : s.cacheLookup s.live.pc = none) (hf : s.fetchFault s.live.pc = some f) :
    step s = .next { s with faultRecord := some f } := by
  obtain ⟨record, runEnd⟩ := hs
  rw [step_eq_stepThread record runEnd hsch, stepThread, stepWith_fetchFault hp hh (decodeAt_fault miss hf),
    raise_of_none f record]

/-- A step that fetches an Unknown word caches its decode, zeroes cell 0 and records the fault (R23, R101, R358). -/
theorem step_unknown (hs : s.running) (hsch : s.schedule = []) (hp : s.pendingStore = none)
    (hh : s.haltPc ≠ some s.live.pc) (miss : s.cacheLookup s.live.pc = none) (hf : s.fetchFault s.live.pc = none)
    (hw : decodeWord (s.mem.wordAt s.live.pc) = .unknown) :
    step s = .next
      (((s.cacheInsert ⟨s.core, s.live.pc, decodeStatic (s.mem.wordAt s.live.pc)⟩).clearZero).recordFault
        (.unknownInstruction s.live.pc (s.mem.wordAt s.live.pc))) := by
  obtain ⟨record, runEnd⟩ := hs
  have leaf : decodeStatic (s.mem.wordAt s.live.pc) = ⟨s.mem.wordAt s.live.pc, .unknown⟩ := by rw [decodeStatic, hw]
  have hd : s.decode = _ := decodeAt_miss miss hf
  rw [step_eq_stepThread record runEnd hsch, stepThread, stepWith_decoded hp hh hd, leaf]
  exact finishStep_stopped fun h => Option.some_ne_none _ h.1

/-- Settles O50, by the two faults of the fetch and the execute rule of Unknown. -/
theorem stepFaults : Obligations.StepFaults := by
  intro s hs hsch hp hh miss
  refine ⟨fun h => step_fetchFault hs hsch hp hh miss (fetchFault_misaligned h),
    fun h hm => step_fetchFault hs hsch hp hh miss (fetchFault_unmapped h hm), fun h hw =>
    ⟨_, step_unknown hs hsch hp hh miss (fetchFault_of_accessible h) hw, ?_, Regs.getX_setX_self _ 0 0, ?_, ?_⟩⟩
  · exact congrArg some (by rw [State.setLive_faultRecord, State.cacheInsert_faultRecord, hs.1]; rfl)
  · exact (cacheLookup_cacheInsert s _ _).trans (if_pos ⟨rfl, rfl⟩)
  · exact ((onlyChanges_setReg s 0 0).mono (by simp)).trans ((onlyChanges_recordFault (s.setReg 0 0) _).mono (by simp))

/-! ## The frames of a system call -/

/-- The frame of the end of a run. -/
theorem onlyChanges_endRun (s : State) (e : RunEnd) : OnlyChanges [.runEnd] s (s.endRun e) := by
  constructor <;> simp [State.reg, State.fw]

/-- The frame of bytes appended to stream 1. -/
theorem onlyChanges_appendOut1 (s : State) (bytes : List Byte) : OnlyChanges [.hostOut1] s (s.appendOut1 bytes) := by
  constructor <;> simp [State.reg, State.fw]

/-- The frame of bytes appended to stream 2. -/
theorem onlyChanges_appendOut2 (s : State) (bytes : List Byte) : OnlyChanges [.hostOut2] s (s.appendOut2 bytes) := by
  constructor <;> simp [State.reg, State.fw]

/-- What the host's results write (R341). -/
theorem setSyscallResult_spec (s : State) (a b : Word) :
    (s.setSyscallResult a b).reg 2 = a ∧ (s.setSyscallResult a b).reg 7 = b ∧
      OnlyChanges [.x 2, .x 7] s (s.setSyscallResult a b) := by
  refine ⟨?_, Regs.getX_setX_self _ 7 b,
    ((onlyChanges_setReg s 2 a).mono (by simp)).trans ((onlyChanges_setReg _ 7 b).mono (by simp))⟩
  exact (Regs.getX_setX_ne _ 7 2 b (by decide)).trans (Regs.getX_setX_self _ 2 a)

/-- The frame of named registers written. -/
theorem onlyChanges_setAll (s : State) (values : List (RegName × Word)) :
    OnlyChanges (values.map fun p => p.1.part) s (s.setLive (s.live.setAll values)) := by
  have named (n : RegName) (h : n.part ∉ values.map fun p => p.1.part) :
      (s.live.setAll values).getNamed n = s.live.getNamed n :=
    Regs.getNamed_setAll_of_notMem fun p hp hn => h (List.mem_map.2 ⟨p, hp, congrArg RegName.part hn⟩)
  obtain ⟨pc, npc, nnpc⟩ := Regs.setAll_counters s.live values
  constructor
  case x => exact fun r => named (.x r)
  case fw => exact fun r => named (.fw r)
  case lo => exact named .lo
  case hi => exact named .hi
  case ea => exact named .ea
  case fcsr => exact named .fcsr
  all_goals simp [pc, npc, nnpc]

/-- The frame of the mapping replaced. -/
theorem onlyChanges_setMapped (s : State) (rs : List Region) : OnlyChanges [.mapped] s (s.setMapped rs) := by
  constructor <;> simp [State.reg, State.fw]

/-- The frame of the host's answers replaced. -/
theorem onlyChanges_setHostAnswers (s : State) (as : List HostAnswer) :
    OnlyChanges [.hostAnswers] s (s.setHostAnswers as) := by
  constructor <;> simp [State.reg, State.fw]

/-- The frame of the whole memory replaced. -/
theorem onlyChanges_setMem_all (s : State) (m : Memory) : OnlyChanges [.mem 0 (2 ^ 32)] s (s.setMem m) :=
  onlyChanges_setMem fun d hd => absurd d.isLt hd

/-- The frame of a host answer that continues: the registers it names, memory, the streams, the mapping and the answers
(R341). -/
theorem onlyChanges_applyHost (s : State) (e : HostEffect) (rest : List HostAnswer) :
    OnlyChanges (.mem 0 (2 ^ 32) :: .hostOut1 :: .hostOut2 :: .mapped :: .hostAnswers :: e.regs.map fun p => p.1.part) s
      ((s.applyHost e).setHostAnswers rest) :=
  (((((onlyChanges_setAll s e.regs).mono fun _ h => .tail _ (.tail _ (.tail _ (.tail _ (.tail _ h))))).trans
    ((onlyChanges_setMem_all _ (s.mem.setBytes e.memory)).mono (by simp))).trans
    ((onlyChanges_appendOut1 _ e.out1).mono (by simp))).trans
    ((onlyChanges_appendOut2 _ e.out2).mono (by simp))).trans
    (((onlyChanges_setMapped _ (e.mapped.getD s.mapped)).mono (by simp)).trans
    ((onlyChanges_setHostAnswers _ rest).mono (by simp)))

/-! ## The default host table -/

/-- A byte access of a mapped byte does not fault: it is never misaligned (R62). -/
theorem accessFault_byte {a : Word} (h : s.isMapped a = true) : s.accessFault a 1 = none := by
  refine accessFault_of_accessible ⟨Nat.mod_one _, fun i hi => ?_⟩
  obtain rfl := Nat.lt_one_iff.1 hi
  rwa [BitVec.add_zero]

/-- The host's bytes of a `write` whose first unmapped byte is `i`: the fault of that byte (R62, R341). -/
theorem hostBytes_unmapped {i n : Nat} {a : Word} (hi : i < n) (h : s.isMapped (a + BitVec.ofNat 32 i) = false)
    (before : ∀ j < i, s.isMapped (a + BitVec.ofNat 32 j) = true) :
    s.hostBytes a n = .error (.dataUnmapped s.live.pc (a + BitVec.ofNat 32 i)) := by
  have next (a : Word) (j : Nat) : a + BitVec.ofNat 32 (j + 1) = a + 1 + BitVec.ofNat 32 j := by
    rw [Nat.add_comm]; exact add_ofNat_add a 1 j
  induction i generalizing a n with
  | zero =>
    obtain ⟨n, rfl⟩ := Nat.exists_eq_add_one_of_ne_zero hi.ne'
    have fault : s.accessFault a 1 = some (.dataUnmapped s.live.pc a) :=
      accessFault_unmapped (Nat.mod_one _) fun hm => Bool.eq_false_iff.1 h (hm 0 Nat.one_pos)
    simp [State.hostBytes, fault]
  | succ i ih =>
    obtain ⟨n, rfl⟩ := Nat.exists_eq_add_one_of_ne_zero (Nat.ne_zero_of_lt hi)
    have first : s.accessFault a 1 = none := accessFault_byte (BitVec.add_zero a ▸ before 0 (Nat.succ_pos i))
    rw [next] at h ⊢
    have rest := ih (Nat.lt_of_succ_lt_succ hi) h fun j hj => next a j ▸ before (j + 1) (Nat.succ_lt_succ hj)
    simp only [State.hostBytes, first, rest]

/-- `exit` and `exit_group` end the run (R392). -/
theorem hostCall_exit {n : Word} (h : n = 4001#32 ∨ n = 4246#32) :
    hostCall n s = .next (s.endRun (.exited (s.reg 4))) := by
  obtain rfl | rfl := h <;> rfl

/-- A number that the table does not list is refused (R391). -/
theorem hostCall_refused {n : Word} (h1 : n ≠ 4001#32) (h2 : n ≠ 4246#32) (h3 : n ≠ 4004#32) :
    hostCall n s = .next (s.endRun (.hostRefused n)) := by
  have listed {k : Nat} (hk : n.toNat = k) : n = BitVec.ofNat 32 k := by rw [← hk, BitVec.ofNat_toNat, BitVec.setWidth_eq]
  unfold hostCall
  split
  · exact absurd (listed ‹_›) h1
  · exact absurd (listed ‹_›) h2
  · exact absurd (listed ‹_›) h3
  · rfl

/-- `write` to stream 1. -/
theorem hostWrite_one (h : s.reg 4 = 1) : hostWrite s = hostWriteTo State.appendOut1 s := if_pos h

/-- `write` to stream 2. -/
theorem hostWrite_two (h : s.reg 4 = 2) : hostWrite s = hostWriteTo State.appendOut2 s := by
  have arg : s.syscallArg 0 = 2 := h
  simp [hostWrite, arg]

/-- `write` to any other: error 9. -/
theorem hostWrite_other (h1 : s.reg 4 ≠ 1) (h2 : s.reg 4 ≠ 2) : hostWrite s = .next (s.setSyscallResult 9 1) :=
  (if_neg h1).trans (if_neg h2)

/-- A `write` of mapped bytes appends them and answers their number. -/
theorem hostWriteTo_ok {append : State → List Byte → State}
    (h : ∀ i < (s.reg 6).toNat, s.isMapped (s.reg 5 + BitVec.ofNat 32 i) = true) :
    hostWriteTo append s = .next ((append s ((List.range (s.reg 6).toNat).map fun i =>
      s.mem.byteAt (s.reg 5 + BitVec.ofNat 32 i))).setSyscallResult (s.reg 6) 0) := by
  have bytes : s.hostBytes (s.syscallArg 1) (s.syscallArg 2).toNat = _ := hostBytes_ok s _ _ h
  rw [hostWriteTo, bytes]
  rfl

/-- A `write` with an unmapped byte records the fault of the first and appends nothing (log 11). -/
theorem hostWriteTo_unmapped {append : State → List Byte → State} {i : Nat} (hi : i < (s.reg 6).toNat)
    (h : s.isMapped (s.reg 5 + BitVec.ofNat 32 i) = false)
    (before : ∀ j < i, s.isMapped (s.reg 5 + BitVec.ofNat 32 j) = true) :
    hostWriteTo append s = raise (.dataUnmapped s.live.pc (s.reg 5 + BitVec.ofNat 32 i)) s := by
  have bytes : s.hostBytes (s.syscallArg 1) (s.syscallArg 2).toNat = _ := hostBytes_unmapped hi h before
  rw [hostWriteTo, bytes]
  rfl

/-- So does either stream's. -/
theorem hostWrite_unmapped {i : Nat} (stream : s.reg 4 = 1 ∨ s.reg 4 = 2) (hi : i < (s.reg 6).toNat)
    (h : s.isMapped (s.reg 5 + BitVec.ofNat 32 i) = false)
    (before : ∀ j < i, s.isMapped (s.reg 5 + BitVec.ofNat 32 j) = true) :
    hostWrite s = raise (.dataUnmapped s.live.pc (s.reg 5 + BitVec.ofNat 32 i)) s := by
  obtain h1 | h2 := stream
  · exact (hostWrite_one h1).trans (hostWriteTo_unmapped hi h before)
  · exact (hostWrite_two h2).trans (hostWriteTo_unmapped hi h before)

/-- A fault raised completes, with the record set and nothing else changed (R370). -/
theorem raise_completes (f : Fault) (h : s.faultRecord = none) :
    ∃ t, raise f s = .next t ∧ t.faultRecord = some f ∧ OnlyChanges [.faultRecord] s t :=
  ⟨_, rfl, by simp [State.recordFault, h], onlyChanges_recordFault s f⟩

/-! ## A given answer -/

/-- The first faulting access of a host answer (R62, R341). -/
theorem firstAccessFault_eq_some {pre post : List (Word × Nat)} {p : Word × Nat} {f : Fault}
    (before : ∀ q ∈ pre, s.accessFault q.1 q.2 = none) (h : s.accessFault p.1 p.2 = some f) :
    s.firstAccessFault (pre ++ p :: post) = some f := by
  induction pre with
  | nil => simp [State.firstAccessFault, h]
  | cons q pre ih =>
    obtain ⟨hq, before⟩ := List.forall_mem_cons.1 before
    simp [State.firstAccessFault, hq, ih before]

/-- `Continue` whose accesses check out (R341). -/
theorem hostAnswered_proceed {e : HostEffect} {rest : List HostAnswer} {n : Word}
    (h : ∀ p ∈ e.accesses, s.accessFault p.1 p.2 = none) :
    hostAnswered (.proceed e) rest n s = .next ((s.applyHost e).setHostAnswers rest) := by
  simp [hostAnswered, firstAccessFault_eq_none.2 h]

/-- `Continue` with an access that faults leaves the fault (log 11). -/
theorem hostAnswered_fault {e : HostEffect} {rest : List HostAnswer} {n : Word} {f : Fault}
    (h : s.firstAccessFault e.accesses = some f) : hostAnswered (.proceed e) rest n s = raise f s := by
  simp [hostAnswered, h]

/-- What a register or a byte holds after a host answer that continues: the last value given, or for a byte given none
what it held (log 14). -/
theorem applyHost_values (s : State) (e : HostEffect) :
    (∀ n v, LastGiven e.regs n v → (s.applyHost e).live.getNamed n = v) ∧
    (∀ a v, LastGiven e.memory a v → (s.applyHost e).mem.byteAt a = v) ∧
    (∀ a, NotGiven e.memory a → (s.applyHost e).mem.byteAt a = s.mem.byteAt a) := by
  refine ⟨?_, ?_, fun a h => Memory.byteAt_setBytes_of_notMem h⟩
  · rintro n v ⟨pre, post, given, last⟩
    show (s.live.setAll e.regs).getNamed n = v
    rw [given]
    exact Regs.getNamed_setAll_last last
  · rintro a v ⟨pre, post, given, last⟩
    show (s.mem.setBytes e.memory).byteAt a = v
    rw [given]
    exact Memory.byteAt_setBytes_last last

/-! ## Every system call -/

/-- An end of the run completes, and changes nothing else (R391). -/
theorem endRun_completes (e : RunEnd) : ∃ t, Host.Outcome.next (s.endRun e) = (.next t : Res) ∧
    t.runEnd = some e ∧ OnlyChanges [.runEnd] s t :=
  ⟨_, rfl, rfl, onlyChanges_endRun s e⟩

/-- With no answer given, a system call does what the default table does (R341). -/
theorem syscall_default (code : BitVec 20) {P : State → Prop} (h : s.hostAnswers = []) {r : Res}
    (hr : hostCall (s.reg 2) s = r) (hP : ∃ t, r = .next t ∧ P t) : Completes (.syscall code) s P := by
  obtain ⟨t, ht, hP⟩ := hP
  exact ⟨t, (execSyscall_default code h).trans (hr.trans ht), hP⟩

/-- With one, it does what the answer says (R341). -/
theorem syscall_answered (code : BitVec 20) {P : State → Prop} {answer : HostAnswer} {rest : List HostAnswer}
    (h : s.hostAnswers = answer :: rest) {r : Res} (hr : hostAnswered answer rest (s.reg 2) s = r)
    (hP : ∃ t, r = .next t ∧ P t) : Completes (.syscall code) s P := by
  obtain ⟨t, ht, hP⟩ := hP
  exact ⟨t, (execSyscall_answered code h).trans (hr.trans ht), hP⟩

/-- A `write` of mapped bytes to a stream: what is appended, what is answered, and the frame. -/
theorem hostWriteTo_completes {append : State → List Byte → State} {stream : State → List Byte} {part : Part}
    (appended : ∀ bytes, stream ((append s bytes).setSyscallResult (s.reg 6) 0) = stream s ++ bytes)
    (frame : ∀ bytes, OnlyChanges [part] s (append s bytes))
    (h : ∀ i < (s.reg 6).toNat, s.isMapped (s.reg 5 + BitVec.ofNat 32 i) = true) :
    ∃ t, hostWriteTo append s = .next t ∧
      stream t = stream s ++ (List.range (s.reg 6).toNat).map (fun i => s.mem.byteAt (s.reg 5 + BitVec.ofNat 32 i)) ∧
      t.reg 2 = s.reg 6 ∧ t.reg 7 = 0 ∧ OnlyChanges [.x 2, .x 7, part] s t := by
  obtain ⟨v2, v7, results⟩ := setSyscallResult_spec (append s _) (s.reg 6) 0
  exact ⟨_, hostWriteTo_ok h, appended _, v2, v7, ((frame _).mono (by simp)).trans (results.mono (by simp))⟩

/-- Settles O40: the default table by `x[2]`, then each answer. -/
theorem systemCalls : Obligations.SystemCalls := by
  refine ⟨fun s code none => ?_, fun s code answer rest given => ?_⟩
  · have write {P : State → Prop} {r : Res} (h : s.reg 2 = 4004#32) (hr : hostWrite s = r)
        (hP : ∃ t, r = .next t ∧ P t) : Completes (.syscall code) s P :=
      syscall_default code none ((congrArg (hostCall · s) h).trans hr) hP
    refine ⟨fun h => syscall_default code none (hostCall_exit h) (endRun_completes _),
      fun h h1 h2 => write h (hostWrite_other h1 h2) ⟨_, rfl, setSyscallResult_spec s 9 1⟩,
      fun h mapped => ⟨fun h1 => write h (hostWrite_one h1) ?_, fun h2 => write h (hostWrite_two h2) ?_⟩,
      fun h1 h2 h3 => syscall_default code none (hostCall_refused h1 h2 h3) (endRun_completes _),
      fun i hf h stream hi unmapped before =>
        write h (hostWrite_unmapped stream hi unmapped before) (raise_completes _ hf)⟩
    · exact hostWriteTo_completes (stream := State.hostOut1) (fun _ => rfl) (onlyChanges_appendOut1 s) mapped
    · exact hostWriteTo_completes (stream := State.hostOut2) (fun _ => rfl) (onlyChanges_appendOut2 s) mapped
  · refine ⟨?_, ?_, ?_, ?_⟩
    · rintro status rfl
      exact syscall_answered code given rfl (endRun_completes _)
    · rintro rfl
      exact syscall_answered code given rfl (endRun_completes _)
    · rintro e rfl checked
      obtain ⟨regs, bytes, others⟩ := applyHost_values s e
      exact syscall_answered code given (hostAnswered_proceed checked)
        ⟨_, rfl, regs, bytes, others, rfl, rfl, rfl, rfl, onlyChanges_applyHost s e rest⟩
    · rintro e pre p post f rfl accesses hf before fault
      exact syscall_answered code given (hostAnswered_fault (accesses ▸ firstAccessFault_eq_some before fault))
        (raise_completes f hf)

end Sys2Proof.Machine
end

section
/-! PROOFS. What the flags of an instruction bound: memory, the counters and the warnings (R67, R125, R127, R172). -/

namespace Sys2Proof.Machine

/-- What an instruction leaves alone by its flags: memory unless it is a STORE or an answered `syscall`, `npc` and `nnpc`
unless it is a CONTROL, and the warnings unless it is one of the three that warn. -/
structure Flagged (i : Instr) (unanswered : Prop) (s t : State) : Prop where
  memory : StaticFlag.store ∉ flagsOf i → mnemonicOf i ≠ "syscall" ∨ unanswered → t.mem = s.mem
  counters : StaticFlag.control ∉ flagsOf i → t.live.npc = s.live.npc ∧ t.live.nnpc = s.live.nnpc
  warnings : mnemonicOf i ≠ "add" → mnemonicOf i ≠ "addi" → mnemonicOf i ≠ "sub" → t.warnings = s.warnings

/-- A result that is a next state bounded by the flags. -/
def Bounded (i : Instr) (unanswered : Prop) (s : State) (r : Res) : Prop := ∃ t, r = .next t ∧ Flagged i unanswered s t

variable {i : Instr} {unanswered : Prop} {s t u : State} {r : Res}

/-- One change after another. -/
theorem Flagged.trans (h : Flagged i unanswered s t) (k : Flagged i unanswered t u) : Flagged i unanswered s u where
  memory hs hu := (k.memory hs hu).trans (h.memory hs hu)
  counters hc :=
    have ⟨npc, nnpc⟩ := h.counters hc
    have ⟨npc', nnpc'⟩ := k.counters hc
    ⟨npc'.trans npc, nnpc'.trans nnpc⟩
  warnings h1 h2 h3 := (k.warnings h1 h2 h3).trans (h.warnings h1 h2 h3)

/-- What leaves memory, the counters and the warnings alone is bounded by any flags. -/
theorem Flagged.quiet (hm : t.mem = s.mem := by rfl) (hn : t.live.npc = s.live.npc := by rfl)
    (hnn : t.live.nnpc = s.live.nnpc := by rfl) (hw : t.warnings = s.warnings := by rfl) : Flagged i unanswered s t :=
  ⟨fun _ _ => hm, fun _ => ⟨hn, hnn⟩, fun _ _ _ => hw⟩

/-- A STORE writes memory. -/
theorem Flagged.setMem {m : Memory} (h : StaticFlag.store ∈ flagsOf i) : Flagged i unanswered s (s.setMem m) :=
  ⟨fun hs => absurd h hs, fun _ => ⟨rfl, rfl⟩, fun _ _ _ => rfl⟩

/-- A CONTROL writes the counters. -/
theorem Flagged.setLive {l : Regs} (h : StaticFlag.control ∈ flagsOf i) : Flagged i unanswered s (s.setLive l) :=
  ⟨fun _ _ => rfl, fun hc => absurd h hc, fun _ _ _ => rfl⟩

/-- A next state bounded by the flags. -/
theorem Bounded.next (h : Flagged i unanswered s t) : Bounded i unanswered s (.next t) := ⟨t, rfl, h⟩

/-- What follows a change. -/
theorem Bounded.after (h : Flagged i unanswered s t) (k : Bounded i unanswered t r) : Bounded i unanswered s r := by
  obtain ⟨u, hu, k⟩ := k
  exact ⟨u, hu, h.trans k⟩

/-! ## The shared operations -/

theorem bounded_raise (f : Fault) : Bounded i unanswered s (raise f s) := .next .quiet

/-- An access that checks out is followed by the rest of the instruction. -/
theorem bounded_accessing {a : Word} {n : Nat} {k : State → Res} (h : Bounded i unanswered (s.setEa a) (k (s.setEa a))) :
    Bounded i unanswered s (s.accessing a n k) := by
  unfold State.accessing
  split
  · exact .after (t := s.setEa a) .quiet (bounded_raise _)
  · exact .after .quiet h

theorem bounded_loadReg {n : Nat} {value : Memory → Word → Word} {rt base : Reg} {offset : BitVec 16} :
    Bounded i unanswered s (loadReg n value rt base offset s) := by
  unfold loadReg
  exact bounded_accessing (.next .quiet)

theorem bounded_loadPartial {merge : Word → Word → Nat → Word} {rt base : Reg} {offset : BitVec 16} :
    Bounded i unanswered s (loadPartial merge rt base offset s) := by
  unfold loadPartial
  exact bounded_accessing (.next .quiet)

theorem bounded_storeMem {n : Nat} {store : Memory → Word → Memory} {base : Reg} {offset : BitVec 16}
    (h : StaticFlag.store ∈ flagsOf i) : Bounded i unanswered s (storeMem n store base offset s) := by
  unfold storeMem
  exact bounded_accessing (.next (.setMem h))

theorem bounded_storePartial {merge : Word → Word → Nat → Word} {rt base : Reg} {offset : BitVec 16}
    (h : StaticFlag.store ∈ flagsOf i) : Bounded i unanswered s (storePartial merge rt base offset s) := by
  unfold storePartial
  exact bounded_accessing (.next (.setMem h))

theorem bounded_branchIf {c : Bool} {offset : BitVec 16} (h : StaticFlag.control ∈ flagsOf i) :
    Bounded i unanswered s (branchIf c offset s) := by
  cases c
  · exact .next .quiet
  · exact .next (.setLive h)

theorem bounded_branchLikelyIf {c : Bool} {offset : BitVec 16} (h : StaticFlag.control ∈ flagsOf i) :
    Bounded i unanswered s (branchLikelyIf c offset s) := by
  cases c
  · exact ⟨_, rfl, (Flagged.setLive h).trans (.setLive h)⟩
  · exact .next (.setLive h)

/-- A link and a jump. -/
theorem Flagged.linkThenJump {d : Reg} {a : Word} (h : StaticFlag.control ∈ flagsOf i) :
    Flagged i unanswered s (linkThenJump d a s) :=
  (Flagged.setLive h).trans (.setLive h)

theorem bounded_linkThenBranchIf {c : Bool} {offset : BitVec 16} (h : StaticFlag.control ∈ flagsOf i) :
    Bounded i unanswered s (linkThenBranchIf c offset s) := by
  cases c
  · exact .next (.setLive h)
  · exact .next (.linkThenJump h)

theorem bounded_unlessClash {c : Bool} {m : Config.LinkClash} {n : String} (h : Bounded i unanswered s r) :
    Bounded i unanswered s (unlessClash c m n s r) := by
  cases c <;> cases m
  case true.fault => exact bounded_raise _
  all_goals exact h

theorem bounded_warnedWrite {n : String} {d : Reg} {v : Int}
    (h : mnemonicOf i = "add" ∨ mnemonicOf i = "addi" ∨ mnemonicOf i = "sub") :
    Bounded i unanswered s (warnedWrite n d v s) := by
  refine ⟨_, rfl, ?_⟩
  unfold State.warnOverflow
  split
  · exact ⟨fun _ _ => rfl, fun _ => ⟨rfl, rfl⟩, fun h1 h2 h3 => absurd h (by simp [h1, h2, h3])⟩
  · exact .quiet

theorem bounded_trapIf {c : Bool} {n : String} : Bounded i unanswered s (trapIf c n s) := by
  unfold trapIf
  split
  · cases c
    · exact .next .quiet
    · exact bounded_raise _
  · exact bounded_raise _

theorem bounded_execSync (stype : BitVec 5) : Bounded i unanswered s (execSync stype s) := by
  unfold execSync
  split
  · exact bounded_raise _
  · exact .next .quiet

theorem bounded_divideByZero {n : String} : Bounded i unanswered s (divideByZero n s) := by
  unfold divideByZero
  split
  · exact bounded_raise _
  · exact .next .quiet

theorem bounded_execDiv {rs rt : Reg} : Bounded i unanswered s (execDiv rs rt s) := by
  unfold execDiv divideOverflow
  dsimp only
  split_ifs
  · exact bounded_divideByZero
  · split
    · exact bounded_raise _
    · exact .next .quiet
  · exact .next .quiet

theorem bounded_execDivu {rs rt : Reg} : Bounded i unanswered s (execDivu rs rt s) := by
  unfold execDivu
  dsimp only
  split_ifs
  · exact bounded_divideByZero
  · exact .next .quiet

theorem bounded_ungated {n : String} : Bounded i unanswered s (ungated n s) := by
  unfold ungated
  split
  · exact .next .quiet
  · exact bounded_raise _

theorem bounded_execCfc1 {rt fs : Reg} : Bounded i unanswered s (execCfc1 rt fs s) := by
  unfold execCfc1
  split_ifs
  · exact .next .quiet
  · exact bounded_ungated

theorem bounded_execCtc1 {rt fs : Reg} : Bounded i unanswered s (execCtc1 rt fs s) := by
  unfold execCtc1
  split_ifs
  · exact .next .quiet
  · exact bounded_ungated

theorem bounded_writeSingle {c : Config.FpCall} {fd : Reg} {v : Option Nat} :
    Bounded i unanswered s (writeSingle c fd v s) := by
  unfold writeSingle
  split
  · exact .next .quiet
  · split <;> exact .next .quiet

theorem bounded_writeDouble {c : Config.FpCall} {fd : Reg} {v : Option Nat} :
    Bounded i unanswered s (writeDouble c fd v s) := by
  unfold writeDouble
  split
  · exact .next .quiet
  · split <;> exact .next .quiet

theorem bounded_writeInt32 {c : Config.FpCall} {fd : Reg} {v : Option Int} :
    Bounded i unanswered s (writeInt32 c fd v s) := by
  unfold writeInt32
  split
  · exact .next .quiet
  · split <;> exact .next .quiet

theorem bounded_writeInt64 {c : Config.FpCall} {fd : Reg} {v : Option Int} :
    Bounded i unanswered s (writeInt64 c fd v s) := by
  unfold writeInt64
  split
  · exact .next .quiet
  · split <;> exact .next .quiet

theorem bounded_hostWriteTo {append : State → List Byte → State} (h : ∀ bytes, Flagged i unanswered s (append s bytes)) :
    Bounded i unanswered s (hostWriteTo append s) := by
  unfold hostWriteTo
  split
  · exact .after (h _) (.next .quiet)
  · exact bounded_raise _

theorem bounded_hostCall {n : Word} : Bounded i unanswered s (hostCall n s) := by
  unfold hostCall
  split
  case h_3 =>
    unfold hostWrite
    split_ifs
    · exact bounded_hostWriteTo fun _ => .quiet
    · exact bounded_hostWriteTo fun _ => .quiet
    · exact .next .quiet
  all_goals exact .next .quiet

/-- A host answer writes memory, and no counter and no warning (log 10). -/
theorem bounded_hostAnswered {answer : HostAnswer} {rest : List HostAnswer} {n : Word} (hm : mnemonicOf i = "syscall")
    (h : ¬unanswered) : Bounded i unanswered s (hostAnswered answer rest n s) := by
  unfold hostAnswered
  split
  · exact .next .quiet
  · exact .next .quiet
  · split
    · exact bounded_raise _
    · obtain ⟨-, npc, nnpc⟩ := Regs.setAll_counters s.live _
      exact .next ⟨fun _ hu => absurd hu (by simp [hm, h]), fun _ => ⟨npc, nnpc⟩, fun _ _ _ => rfl⟩

theorem bounded_execSyscall (code : BitVec 20) (hm : mnemonicOf i = "syscall") :
    Bounded i (s.hostAnswers = []) s (execSyscall code s) := by
  unfold execSyscall
  split
  case h_1 => exact bounded_hostCall
  case h_2 answer rest given => exact bounded_hostAnswered hm fun none => List.cons_ne_nil _ _ (given.symm.trans none)

/-! ## Every instruction -/

/-- Every instruction is bounded by its flags: the operation it is made of is, or it leaves memory, the counters and the
warnings alone. -/
theorem exec_bounded (i : Instr) (s : State) : Bounded i (s.hostAnswers = []) s (exec i s) := by
  have third {a b c : StaticFlag} : c ∈ [a, b, c] := .tail _ (.tail _ List.mem_cons_self)
  cases i
  case syscall code => exact bounded_execSyscall code rfl
  case sync stype => exact bounded_execSync stype
  case add => exact bounded_warnedWrite (.inl rfl)
  case addi => exact bounded_warnedWrite (.inr (.inl rfl))
  case sub => exact bounded_warnedWrite (.inr (.inr rfl))
  case div => exact bounded_execDiv
  case divu => exact bounded_execDivu
  case tge | tgeu | tlt | tltu | teq | tne | tgei | tgeiu | tlti | tltiu | teqi | tnei => exact bounded_trapIf
  case b | beq | bne | blez | bgtz | bltz | bgez | bc1f | bc1t => exact bounded_branchIf List.mem_cons_self
  case bc1fl | bc1tl => exact bounded_branchLikelyIf List.mem_cons_self
  case bltzal | bgezal => exact bounded_unlessClash (bounded_linkThenBranchIf List.mem_cons_self)
  case j | jr => exact .next (.setLive List.mem_cons_self)
  case bal | jal => exact .next (.linkThenJump List.mem_cons_self)
  case jalr => exact bounded_unlessClash (.next (.linkThenJump List.mem_cons_self))
  case cfc1 => exact bounded_execCfc1
  case ctc1 => exact bounded_execCtc1
  case addS | subS | mulS | divS | sqrtS | cvtSD => exact bounded_writeSingle
  case addD | subD | mulD | divD | sqrtD | cvtDS => exact bounded_writeDouble
  case cvtWS | cvtWD => exact bounded_writeInt32
  case cvtLS | cvtLD => exact bounded_writeInt64
  case lb | lbu | lh | lhu | lw | ll =>
    dsimp only [exec, execLb, execLbu, execLh, execLhu, execLw, execLl]
    exact bounded_loadReg
  case lwl | lwr => exact bounded_loadPartial
  case lwc1 | ldc1 =>
    dsimp only [exec, execLwc1, execLdc1]
    exact bounded_accessing (.next .quiet)
  case sb | sh | sw | swc1 | sdc1 =>
    dsimp only [exec, execSb, execSh, execSw, execSwc1, execSdc1]
    exact bounded_storeMem third
  case swl | swr => exact bounded_storePartial third
  case sc =>
    dsimp only [exec, execSc]
    exact bounded_accessing (.after (.setMem third) (.next .quiet))
  all_goals exact .next .quiet

/-- Settles O45: the flags bound what each instruction does, and none changes `pc`. -/
theorem flagsBoundTheEffect : Obligations.FlagsBoundTheEffect := by
  intro s t i h
  obtain ⟨u, hu, memory, counters, warnings⟩ := exec_bounded i s
  obtain rfl := Host.Outcome.next.inj (h.symm.trans hu)
  exact ⟨fun hs hm a => congrArg (Memory.byteAt · a) (memory hs hm), counters, (exec_fixed h).pc, warnings⟩

end Sys2Proof.Machine
end

section
/-! PROOFS. The decoder and the encoder agree (R91 to R96, R100 to R123), and the literal words and disassemblies of the
spec (R124, R133). -/

namespace Sys2Proof.Machine

/-! ## Decoding an instruction's own word -/

section
open Laws.RoundTrip

/-- Settles O1, by the lemma of each constructor, in their order. -/
theorem roundTrip : Obligations.RoundTrip := by
  intro i
  change Statement i
  cases i
  exacts [nop _, sll _ _ _, srl _ _ _, sra _ _ _, sllv _ _ _, srlv _ _ _, srav _ _ _, jr _, jalr _ _, syscall _, brk _,
    sync _, mfhi _, mthi _, mflo _, mtlo _, mult _ _, multu _ _, div _ _, divu _ _, add _ _ _, addu _ _ _, sub _ _ _,
    subu _ _ _, and _ _ _, or _ _ _, xor _ _ _, nor _ _ _, slt _ _ _, sltu _ _ _, tge _ _ _, tgeu _ _ _, tlt _ _ _,
    tltu _ _ _, teq _ _ _, tne _ _ _, bltz _ _, bgez _ _, tgei _ _, tgeiu _ _, tlti _ _, tltiu _ _, teqi _ _,
    tnei _ _, bltzal _ _, bal _, bgezal _ _, j _, jal _, b _, beq _ _ _, bne _ _ _, blez _ _, bgtz _ _, addi _ _ _,
    addiu _ _ _, slti _ _ _, sltiu _ _ _, andi _ _ _, ori _ _ _, xori _ _ _, lui _ _, mfc1 _ _, cfc1 _ _, mtc1 _ _,
    ctc1 _ _, bc1f _ _, bc1t _ _, bc1fl _ _, bc1tl _ _, addS _ _ _, subS _ _ _, mulS _ _ _, divS _ _ _, sqrtS _ _,
    absS _ _, movS _ _, negS _ _, cvtDS _ _, cvtWS _ _, cvtLS _ _, cFS _ _ _, cUnS _ _ _, cEqS _ _ _, cUeqS _ _ _,
    cOltS _ _ _, cUltS _ _ _, cOleS _ _ _, cUleS _ _ _, cSfS _ _ _, cNgleS _ _ _, cSeqS _ _ _, cNglS _ _ _,
    cLtS _ _ _, cNgeS _ _ _, cLeS _ _ _, cNgtS _ _ _, addD _ _ _, subD _ _ _, mulD _ _ _, divD _ _ _, sqrtD _ _,
    absD _ _, movD _ _, negD _ _, cvtSD _ _, cvtWD _ _, cvtLD _ _, cFD _ _ _, cUnD _ _ _, cEqD _ _ _, cUeqD _ _ _,
    cOltD _ _ _, cUltD _ _ _, cOleD _ _ _, cUleD _ _ _, cSfD _ _ _, cNgleD _ _ _, cSeqD _ _ _, cNglD _ _ _,
    cLtD _ _ _, cNgeD _ _ _, cLeD _ _ _, cNgtD _ _ _, cvtSW _ _, cvtDW _ _, cvtSL _ _, cvtDL _ _, lb _ _ _, lh _ _ _,
    lwl _ _ _, lw _ _ _, lbu _ _ _, lhu _ _ _, lwr _ _ _, sb _ _ _, sh _ _ _, swl _ _ _, sw _ _ _, swr _ _ _,
    ll _ _ _, sc _ _ _, lwc1 _ _ _, ldc1 _ _ _, swc1 _ _ _, sdc1 _ _ _, ssnop, ehb, movf, movt, rotr, rotrv, jrHb,
    jalrHb, movz, movn, bltzl, bgezl, bltzall, bgezall, synci, failSentinel, passSentinel, cop0, mfc0, mtc0, rdpgpr,
    wrpgpr, di, ei, tlbr, tlbwi, tlbwr, tlbp, eret, deret, wait, dmfc1, mfhc1, dmtc1, mthc1, bc1any2, bc1any4,
    roundLS, truncLS, ceilLS, floorLS, roundWS, truncWS, ceilWS, floorWS, movzS, movnS, recipS, rsqrtS, movfS, movtS,
    cvtPsS, roundLD, truncLD, ceilLD, floorLD, roundWD, truncWD, ceilWD, floorWD, movzD, movnD, recipD, rsqrtD, movfD,
    movtD, fmtPs, cop2, lwxc1, ldxc1, luxc1, swxc1, sdxc1, suxc1, prefx, alnvPs, maddS, maddD, maddPs, msubS, msubD,
    msubPs, nmaddS, nmaddD, nmaddPs, nmsubS, nmsubD, nmsubPs, beql, bnel, blezl, bgtzl, madd, maddu, mul, msub, msubu,
    clz, clo, sdbbp, jalx, ext, ins, wsbh, seb, seh, rdhwr, cache, pref, lwc2, ldc2, swc2, sdc2]

end

/-! ## A word as its fields, format by format -/

section
variable {w : Word} {op func : BitVec 6} {rs rt rd fmt ft fs sa : Reg} {imm : BitVec 16}

/-- The R and FR formats (R93, R96). -/
theorem rWord_eq_iff : rWord op rs rt rd sa func = w ↔
    Field.opcode w = op ∧ Field.rs w = rs ∧ Field.rt w = rt ∧ Field.rd w = rd ∧ Field.sa w = sa ∧
      Field.func w = func := by
  constructor
  · rintro rfl
    simp
  · rintro ⟨rfl, rfl, rfl, rfl, rfl, rfl⟩
    simp only [rWord, Field.opcode, Field.rs, Field.rt, Field.rd, Field.sa, Field.func,
      BitVec.extractLsb'_append_extractLsb'_eq_extractLsb']
    exact BitVec.extractLsb'_eq_self

/-- The I format (R94). -/
theorem iWord_eq_iff : iWord op rs rt imm = w ↔
    Field.opcode w = op ∧ Field.rs w = rs ∧ Field.rt w = rt ∧ Field.imm w = imm := by
  constructor
  · rintro rfl
    simp
  · rintro ⟨rfl, rfl, rfl, rfl⟩
    simp only [iWord, Field.opcode, Field.rs, Field.rt, Field.imm, BitVec.extractLsb'_append_extractLsb'_eq_extractLsb']
    exact BitVec.extractLsb'_eq_self

/-- The J format (R95). -/
theorem jWord_eq_iff {target : BitVec 26} : jWord op target = w ↔ Field.opcode w = op ∧ Field.target w = target := by
  constructor
  · rintro rfl
    simp
  · rintro ⟨rfl, rfl⟩
    simp only [jWord, Field.opcode, Field.target, BitVec.extractLsb'_append_extractLsb'_eq_extractLsb']
    exact BitVec.extractLsb'_eq_self

/-- The words of `syscall` and `break` (R92). -/
theorem codeWord_eq_iff {code : BitVec 20} : codeWord code func = w ↔
    Field.opcode w = 0 ∧ Field.code w = code ∧ Field.func w = func := by
  constructor
  · rintro rfl
    simp
  · rintro ⟨ho, rfl, rfl⟩
    rw [codeWord, show 0#6 = Field.opcode w from ho.symm]
    simp only [Field.opcode, Field.code, Field.func, BitVec.extractLsb'_append_extractLsb'_eq_extractLsb']
    exact BitVec.extractLsb'_eq_self

/-- The words of the register traps (R92). -/
theorem trapWord_eq_iff {code : BitVec 10} : trapWord rs rt code func = w ↔
    Field.opcode w = 0 ∧ Field.rs w = rs ∧ Field.rt w = rt ∧ Field.trapCode w = code ∧ Field.func w = func := by
  constructor
  · rintro rfl
    simp
  · rintro ⟨ho, rfl, rfl, rfl, rfl⟩
    rw [trapWord, show 0#6 = Field.opcode w from ho.symm]
    simp only [Field.opcode, Field.rs, Field.rt, Field.trapCode, Field.func,
      BitVec.extractLsb'_append_extractLsb'_eq_extractLsb']
    exact BitVec.extractLsb'_eq_self

/-- A five-bit field is its upper three bits and its lower two: CC and CMPZ, or BRANCH_CC and ND with TF (R96). -/
theorem upper_append_lower (v : BitVec 5) : (v.extractLsb' 2 3 ++ v.extractLsb' 0 2 : BitVec 5) = v :=
  (BitVec.extractLsb'_append_extractLsb'_eq_extractLsb' rfl).trans BitVec.extractLsb'_eq_self

/-- The words of the compares (R96). -/
theorem cmpWord_eq_iff {cc : BitVec 3} : cmpWord fmt ft fs cc func = w ↔ Field.opcode w = 0x11 ∧ Field.rs w = fmt ∧
    Field.rt w = ft ∧ Field.rd w = fs ∧ Field.cc w = cc ∧ Field.cmpz w = 0 ∧ Field.func w = func := by
  constructor
  · rintro rfl
    simp
  · rintro ⟨ho, hr, ht, hd, rfl, hz, hf⟩
    exact rWord_eq_iff.2 ⟨ho, hr, ht, hd, (upper_append_lower _).symm.trans (congrArg (Field.cc w ++ ·) hz), hf⟩

/-- The words of the branches on a condition bit (R96). -/
theorem bc1Word_eq_iff {cc : BitVec 3} {k : BitVec 2} : bc1Word cc k imm = w ↔
    Field.opcode w = 0x11 ∧ Field.rs w = 8 ∧ Field.branchCc w = cc ∧ Field.ndTf w = k ∧ Field.imm w = imm := by
  constructor
  · rintro rfl
    simp
  · rintro ⟨ho, hr, rfl, rfl, hi⟩
    exact iWord_eq_iff.2 ⟨ho, hr, (upper_append_lower _).symm, hi⟩

end

/-! ## Re-encoding, level by level of the tree

At a cell the fields that its format does not take from the operands are already known: the value each level was
entered at, and the fields the cell's own test compares. -/

/-- A leaf's instruction is well-formed and, if it is implemented, encodes to the word. -/
def Reencodes (w : Word) : Leaf → Prop
  | .instr i => i.wellFormed = true ∧ (markerGroupOf i = none → encode i = w)
  | .unknown => True

section
variable {w : Word} {n : Nat}

@[simp] theorem reencodes_unknown : Reencodes w .unknown := trivial

@[simp] theorem reencodes_instr {i : Instr} :
    Reencodes w (.instr i) ↔ i.wellFormed = true ∧ (markerGroupOf i = none → encode i = w) := .rfl

@[simp] theorem reencodes_guard {ok : Bool} {i : Instr} :
    Reencodes w (.guard ok i) ↔ (ok = true → Reencodes w (.instr i)) := by
  cases ok <;> simp [Leaf.guard]

@[simp] theorem reencodes_ite {c : Prop} [Decidable c] {a b : Leaf} :
    Reencodes w (if c then a else b) ↔ (c → Reencodes w a) ∧ (¬c → Reencodes w b) := by
  by_cases h : c <;> simp [h]

/-- SPECIAL, FUNC 0 (R111). -/
theorem reencodes_decodeShiftLeft (ho : Field.opcode w = 0) (hf : Field.func w = 0) :
    Reencodes w (decodeShiftLeft w) := by
  simp only [decodeShiftLeft, reencodes_ite, reencodes_instr]
  dsimp only [Instr.wellFormed, markerGroupOf, encode]
  simp +contextual [rWord_eq_iff, ho, hf]
  -- `sll`: RT and RD are not both 0
  exact fun _ => imp_iff_not_or.1

/-- SPECIAL (R111). -/
theorem reencodes_decodeSpecialAt (ho : Field.opcode w = 0) (hf : Field.func w = BitVec.ofNat 6 n) :
    Reencodes w (decodeSpecialAt n w) := by
  unfold decodeSpecialAt
  split
  case h_1 => exact reencodes_decodeShiftLeft ho hf
  all_goals simp only [reencodes_guard, reencodes_ite, reencodes_instr, reencodes_unknown]
  all_goals dsimp only [Instr.wellFormed, markerGroupOf, encode]
  all_goals simp +contextual [rWord_eq_iff, codeWord_eq_iff, trapWord_eq_iff, ho, hf]

/-- REGIMM (R112). -/
theorem reencodes_decodeRegimmAt (ho : Field.opcode w = 1) (ht : Field.rt w = BitVec.ofNat 5 n) :
    Reencodes w (decodeRegimmAt n w) := by
  unfold decodeRegimmAt
  split
  all_goals simp only [reencodes_ite, reencodes_instr, reencodes_unknown]
  all_goals dsimp only [Instr.wellFormed, markerGroupOf, encode]
  all_goals simp +contextual [iWord_eq_iff, ho, ht]

/-- `sltiu` and the sentinels (R113). -/
theorem reencodes_decodeSltiu (ho : Field.opcode w = 0x0B) : Reencodes w (decodeSltiu w) := by
  simp only [decodeSltiu, reencodes_ite, reencodes_instr]
  dsimp only [Instr.wellFormed, markerGroupOf, encode]
  simp +contextual [iWord_eq_iff, ho]
  -- `sltiu`: the word is neither sentinel
  tauto

/-- BC (R115). -/
theorem reencodes_decodeBc1At (ho : Field.opcode w = 0x11) (hr : Field.rs w = 8)
    (hn : Field.ndTf w = BitVec.ofNat 2 n) (hlt : n < 4) : Reencodes w (decodeBc1At n w) := by
  interval_cases n
  all_goals exact ⟨rfl, fun _ => bc1Word_eq_iff.2 ⟨ho, hr, rfl, hn, rfl⟩⟩

/-- COP1 (R115 to R117): the moves, BC, and the four formats on FUNC. -/
theorem reencodes_decodeCop1 (ho : Field.opcode w = 0x11) : Reencodes w (decodeCop1 w) := by
  have hr : Field.rs w = BitVec.ofNat 5 (Field.rs w).toNat := by simp
  have hf : Field.func w = BitVec.ofNat 6 (Field.func w).toNat := by simp
  unfold decodeCop1 decodeCop1At decodeCop1S decodeCop1D decodeCop1W decodeCop1L decodeCop1SAt decodeCop1DAt
  generalize (Field.rs w).toNat = rs at hr ⊢
  generalize (Field.func w).toNat = func at hf ⊢
  split
  -- RS = 8
  case h_9 => exact reencodes_decodeBc1At ho hr (by simp) (Field.ndTf w).isLt
  -- RS = 16, 17, 20, 21: the formats S, D, W, L
  case h_12 | h_13 | h_14 | h_15 =>
    split
    all_goals simp only [reencodes_guard, reencodes_ite, reencodes_instr, reencodes_unknown]
    all_goals dsimp only [Instr.wellFormed, markerGroupOf, encode]
    all_goals simp +contextual [rWord_eq_iff, cmpWord_eq_iff, ho, hr, hf]
  all_goals simp only [reencodes_guard, reencodes_instr, reencodes_unknown]
  all_goals dsimp only [Instr.wellFormed, markerGroupOf, encode]
  all_goals simp +contextual [rWord_eq_iff, low11Zero, ho, hr]

/-- COP0, COP1X, SPECIAL2 and SPECIAL3 (R114, R118, R120, R121): markers only. -/
theorem reencodes_markers : Reencodes w (decodeCop0 w) ∧ Reencodes w (decodeCop1x w) ∧ Reencodes w (decodeSpecial2 w) ∧
    Reencodes w (decodeSpecial3 w) := by
  unfold decodeCop0 decodeCop0Co decodeCop0CoAt decodeCop1x decodeCop1xAt decodeSpecial2 decodeSpecial2At decodeSpecial3
  refine ⟨?_, ?_, ?_, ?_⟩
  all_goals repeat' split
  all_goals simp only [reencodes_instr, reencodes_unknown]
  all_goals dsimp only [Instr.wellFormed, markerGroupOf]
  all_goals simp

/-- The whole tree (R100, R110, R113, R119, R122). -/
theorem reencodes_decodeWord (w : Word) : Reencodes w (decodeWord w) := by
  have ho : Field.opcode w = BitVec.ofNat 6 (Field.opcode w).toNat := by simp
  unfold decodeWord decodeWordAt
  generalize (Field.opcode w).toNat = op at ho ⊢
  obtain ⟨cop0, cop1x, special2, special3⟩ := reencodes_markers (w := w)
  split
  case h_1 => exact reencodes_decodeSpecialAt ho (by simp)
  case h_2 => exact reencodes_decodeRegimmAt ho (by simp)
  case h_12 => exact reencodes_decodeSltiu ho
  case h_18 => exact reencodes_decodeCop1 ho
  all_goals simp only [reencodes_guard, reencodes_ite, reencodes_instr, reencodes_unknown, *]
  all_goals dsimp only [Instr.wellFormed, markerGroupOf, encode]
  all_goals simp +contextual [iWord_eq_iff, jWord_eq_iff, ho]
  -- `beq`: RS and RT are not both 0
  exact imp_iff_not_or.1

end

/-- Settles O2, cell by cell of the tree. -/
theorem decodedWordsReencode : Obligations.DecodedWordsReencode := by
  intro w i h
  have hw := reencodes_decodeWord w
  rwa [h] at hw

/-! ## Literal words -/

/-- Settles O3. -/
theorem specWordsDecode : Obligations.SpecWordsDecode := by
  unfold Obligations.SpecWordsDecode
  decide

/-- Settles O5. -/
theorem disassemblyExamples : Obligations.DisassemblyExamples := by
  unfold Obligations.DisassemblyExamples
  decide

end Sys2Proof.Machine
end

section
/-! PROOFS. Must-be-zero fields (R103, R106, R111). -/

namespace Sys2Proof.Machine

section
variable {w : Word} {n : Nat}

/-! ## Tests of must-be-zero fields that fail -/

/-- A must-be-zero test that fails gives `Unknown` (R103, R106). -/
theorem guard_of_false {ok : Bool} {i : Instr} (h : ok = false) : Leaf.guard ok i = .unknown :=
  if_neg (ne_true_of_eq_false h)

theorem guard_of_ne {k : Nat} {v : BitVec k} {i : Instr} (h : v ≠ 0) : Leaf.guard (v == 0) i = .unknown :=
  guard_of_false (beq_false_of_ne h)

theorem zeros2_eq_false {a b : BitVec 5} (h : a ≠ 0 ∨ b ≠ 0) : (a == 0 && b == 0) = false :=
  Bool.and_eq_false_iff.2 (h.imp beq_false_of_ne beq_false_of_ne)

theorem zeros3_eq_false {a b c : BitVec 5} (h : a ≠ 0 ∨ b ≠ 0 ∨ c ≠ 0) : (a == 0 && b == 0 && c == 0) = false :=
  Bool.and_eq_false_iff.2 ((or_assoc.2 h).imp zeros2_eq_false beq_false_of_ne)

/-- Bit 10 is HB (R92). -/
theorem hb_ne_one (h : w.getLsbD 10 = false) : ¬(Field.hb w == 1) = true := by
  have zero : Field.hb w = 0 := by
    apply BitVec.eq_of_getLsbD_eq
    simpa [Field.hb, Field.sa] using h
  rw [zero]
  decide

/-- LOW11 is bits 10:0 (R103). -/
theorem low11Zero_eq_false (h : w.extractLsb' 0 11 ≠ 0) : low11Zero w = false := by
  have low11 : Field.sa w ++ Field.func w = w.extractLsb' 0 11 :=
    BitVec.extractLsb'_append_extractLsb'_eq_extractLsb' rfl
  refine Bool.eq_false_iff.2 fun hz => h ?_
  obtain ⟨hs, hf⟩ := Bool.and_eq_true_iff.1 hz
  rw [← low11, eq_of_beq hs, eq_of_beq hf]
  rfl

/-- CMPZ is bits 7:6 (R92). -/
theorem cmpz_eq (w : Word) : Field.cmpz w = w.extractLsb' 6 2 :=
  BitVec.eq_of_getLsbD_eq fun i hi => by
    simp only [Field.cmpz, Field.sa, BitVec.getLsbD_extractLsb']
    interval_cases i <;> simp

/-! ## The cells that test one -/

theorem decodeWord_special (ho : Field.opcode w = 0) (hf : (Field.func w).toNat = n) :
    decodeWord w = decodeSpecialAt n w :=
  (decodeWord_at (congrArg BitVec.toNat ho)).trans (decodeSpecial_at hf)

theorem decodeWord_cop1 (ho : Field.opcode w = 17) (hr : (Field.rs w).toNat = n) : decodeWord w = decodeCop1At n w :=
  (decodeWord_at (congrArg BitVec.toNat ho)).trans (decodeCop1_at hr)

/-- The one-operand instructions of formats S and D with FT nonzero. -/
theorem unary_of_ft (h : Field.rt w ≠ 0) (lo : 4 ≤ n) (hi : n ≤ 7) :
    decodeCop1SAt n w = .unknown ∧ decodeCop1DAt n w = .unknown := by
  interval_cases n <;> exact ⟨guard_of_ne h, guard_of_ne h⟩

/-- The compares of formats S and D with CMPZ nonzero. -/
theorem compare_of_cmpz (h : Field.cmpz w ≠ 0) (lo : 48 ≤ n) (hi : n < 64) :
    decodeCop1SAt n w = .unknown ∧ decodeCop1DAt n w = .unknown := by
  interval_cases n <;> exact ⟨guard_of_ne h, guard_of_ne h⟩

/-- The conversions of formats W and L with FT nonzero. -/
theorem conversion_of_ft (h : Field.rt w ≠ 0) : decodeCop1W w = .unknown ∧ decodeCop1L w = .unknown := by
  unfold decodeCop1W decodeCop1L
  constructor <;> split
  case h_3 | h_3 => rfl
  all_goals exact guard_of_ne h

end

/-- Settles O4, by the cell of each word and the test it makes. -/
theorem nonzeroReservedFieldIsUnknown : Obligations.NonzeroReservedFieldIsUnknown := by
  intro w
  refine ⟨fun ho => ?_, ?_, ?_, fun ho => ?_⟩
  · have special {f : BitVec 6} (hf : Field.func w = f) : decodeWord w = decodeSpecialAt f.toNat w :=
      decodeWord_special ho (congrArg BitVec.toNat hf)
    refine ⟨?_, ?_, ?_, ?_, ?_, ?_, ?_, ?_, ?_, ?_, ?_⟩
    -- `sll` and `sra`
    · rintro (hf | hf) h
      · exact (special hf).trans (if_pos (bne_iff_ne.2 h))
      · exact (special hf).trans (guard_of_ne h)
    -- `srl`
    · exact fun hf h0 h1 => (special hf).trans ((if_neg (mt eq_of_beq h0)).trans (if_neg (mt eq_of_beq h1)))
    -- `sllv` and `srav`
    · rintro (hf | hf) h <;> exact (special hf).trans (guard_of_ne h)
    -- `srlv`
    · exact fun hf h0 h1 => (special hf).trans ((if_neg (mt eq_of_beq h0)).trans (if_neg (mt eq_of_beq h1)))
    -- `jr` and `jalr`
    · exact fun hf hb h => (special hf).trans ((if_neg (hb_ne_one hb)).trans (guard_of_false (zeros3_eq_false h)))
    · exact fun hf hb h => (special hf).trans ((if_neg (hb_ne_one hb)).trans (guard_of_false (zeros2_eq_false h)))
    -- `sync`
    · exact fun hf h => (special hf).trans (guard_of_false (zeros3_eq_false h))
    -- the moves of `hi` and `lo`
    · rintro (hf | hf) h <;> exact (special hf).trans (guard_of_false (zeros3_eq_false h))
    · rintro (hf | hf) h <;> exact (special hf).trans (guard_of_false (zeros3_eq_false h))
    -- the multiplications and divisions
    · intro lo hi h
      rw [decodeWord_special ho rfl]
      generalize (Field.func w).toNat = n at lo hi ⊢
      interval_cases n <;> exact guard_of_false (zeros2_eq_false h)
    -- the three-register forms
    · intro lo hi h
      rw [decodeWord_special ho rfl]
      generalize (Field.func w).toNat = n at lo hi ⊢
      obtain below | rfl | rfl | above : n ≤ 39 ∨ n = 40 ∨ n = 41 ∨ 42 ≤ n := by omega
      · interval_cases n <;> exact guard_of_ne h
      · rfl
      · rfl
      · interval_cases n <;> exact guard_of_ne h
  -- `blez` and `bgtz`, then `lui`
  · rintro (ho | ho) h <;> exact (decodeWord_at (congrArg BitVec.toNat ho)).trans (guard_of_ne h)
  · exact fun ho h => (decodeWord_at (congrArg BitVec.toNat ho)).trans (guard_of_ne h)
  · have cop1 {r : BitVec 5} (hr : Field.rs w = r) : decodeWord w = decodeCop1At r.toNat w :=
      decodeWord_cop1 ho (congrArg BitVec.toNat hr)
    refine ⟨?_, ?_, ?_, ?_⟩
    -- the coprocessor moves, the one-operand forms, the conversions, the compares
    · rintro (hr | hr | hr | hr) h <;> exact (cop1 hr).trans (guard_of_false (low11Zero_eq_false h))
    · rintro (hr | hr) lo hi h
      · exact (cop1 hr).trans (unary_of_ft h lo hi).1
      · exact (cop1 hr).trans (unary_of_ft h lo hi).2
    · rintro (⟨hr, hf | hf | hf⟩ | ⟨hr, hf | hf | hf⟩ | ⟨hr | hr, -⟩) h
      case inr.inr.inl => exact (cop1 hr).trans (conversion_of_ft h).1
      case inr.inr.inr => exact (cop1 hr).trans (conversion_of_ft h).2
      case inl.inl | inl.inr.inl | inl.inr.inr =>
        exact (cop1 hr).trans ((decodeCop1S_at (congrArg BitVec.toNat hf)).trans (guard_of_ne h))
      all_goals exact (cop1 hr).trans ((decodeCop1D_at (congrArg BitVec.toNat hf)).trans (guard_of_ne h))
    · rintro (hr | hr) lo h <;> rw [← cmpz_eq] at h
      · exact (cop1 hr).trans (compare_of_cmpz h lo (Field.func w).isLt).1
      · exact (cop1 hr).trans (compare_of_cmpz h lo (Field.func w).isLt).2

end Sys2Proof.Machine
end

section
/-! PROOFS. The immediate instructions and the markers (R98, R105, R165 to R171, R359, R360). -/

namespace Sys2Proof.Machine

/-! ## The immediates as numbers (R98) -/

theorem toInt_sextImm (imm : BitVec 16) : (sextImm imm).toInt = imm.toInt := BitVec.toInt_signExtend_of_le (by decide)

theorem toNat_sextImm (imm : BitVec 16) : ((sextImm imm).toNat : Int) = imm.toInt % 2 ^ 32 :=
  (congrArg Nat.cast (BitVec.toNat_ofInt _)).trans (Int.toNat_of_nonneg (Int.emod_nonneg _ (by decide)))

theorem toNat_zextImm (imm : BitVec 16) : (zextImm imm).toNat = imm.toNat := BitVec.toNat_setWidth_of_le (by decide)

theorem toNat_upperImm (imm : BitVec 16) : (upperImm imm).toNat = imm.toNat * 2 ^ 16 := by
  rw [upperImm, BitVec.toNat_append, Nat.shiftLeft_eq]
  exact Nat.or_zero _

/-- An `and` with a zero-extended immediate is one of the low halves. -/
theorem toNat_and_zextImm (a : Word) (imm : BitVec 16) :
    (a &&& zextImm imm).toNat = a.toNat % 2 ^ 16 &&& imm.toNat := by
  have low : imm.toNat % 2 ^ 16 = imm.toNat := Nat.mod_eq_of_lt imm.isLt
  rw [BitVec.toNat_and, toNat_zextImm, ← low, ← Nat.and_mod_two_pow, low]
  exact (Nat.mod_eq_of_lt (Nat.and_lt_two_pow _ imm.isLt)).symm

/-! ## Writes of a general register -/

@[simp] theorem reg_setReg_self (s : State) (i : Reg) (v : Word) : (s.setReg i v).reg i = v :=
  Regs.getX_setX_self s.live i v

/-! ## Comparisons as numbers -/

theorem boolWord_slt (a b : Word) : boolWord (a.slt b) = if a.toInt < b.toInt then 1 else 0 := by
  simp [boolWord, BitVec.slt_eq_decide]

theorem boolWord_ult (a b : Word) : boolWord (a.ult b) = if (a.toNat : Int) < b.toNat then 1 else 0 := by
  simp [boolWord, BitVec.ult_eq_decide]

/-! ## The immediate instructions -/

/-- Settles O16: each writes `rt`, by the number its immediate stands for. -/
theorem immediateResults : Obligations.ImmediateResults := by
  intro s rt rs imm
  refine ⟨⟨_, rfl, ?addiu, onlyChanges_setReg ..⟩, ⟨_, rfl, ?less, ?notLess, onlyChanges_setReg ..⟩,
    ⟨_, rfl, ?zext, ?sext, onlyChanges_setReg ..⟩, ⟨_, rfl, ?andi, onlyChanges_setReg ..⟩,
    ⟨_, rfl, ?ori, onlyChanges_setReg ..⟩, ⟨_, rfl, ?xori, onlyChanges_setReg ..⟩,
    ⟨_, rfl, ?lui, onlyChanges_setReg ..⟩⟩
  all_goals simp only [reg_setReg_self, boolWord_slt, boolWord_ult, toInt_sextImm]
  case addiu => rw [BitVec.ofInt_add, BitVec.ofInt_toInt, sextImm, BitVec.signExtend]
  case less => exact fun h => if_pos h
  case notLess => exact fun h => if_neg h
  case zext =>
    intro h
    simp only [h, sltiuImm, toNat_zextImm, Nat.cast_lt]
  case sext =>
    intro h
    simp only [h, sltiuImm, toNat_sextImm]
  case andi => exact toNat_and_zextImm _ _
  case ori => rw [BitVec.toNat_or, toNat_zextImm]
  case xori => rw [BitVec.toNat_xor, toNat_zextImm]
  case lui => exact toNat_upperImm imm

/-! ## The markers -/

/-- A marker raises UNIMPLEMENTED with its group and mnemonic (R359, R360). -/
theorem exec_marker {i : Instr} {g : MarkerGroup} (s : State) (h : markerGroupOf i = some g) :
    exec i s = raise (.unimplemented s.live.pc g (mnemonicOf i)) s := by
  cases i <;> cases h
  all_goals rfl

/-- Settles O43: a marker's execution is that fault raised. -/
theorem markersAreUnimplemented : Obligations.MarkersAreUnimplemented := by
  intro s i g hg hr
  rw [Completes, exec_marker s hg]
  exact raise_completes _ hr

end Sys2Proof.Machine
end

section
/-! PROOFS. Shifts, register ALU instructions and the overflow warning (R140 to R155, R164, R172). -/

namespace Sys2Proof.Machine

/-! ## Shifts and differences as numbers -/

theorem shiftAmount_eq (v : Word) : shiftAmount v = v.toNat % 32 := BitVec.extractLsb'_toNat 0 5 v

theorem shiftLeft_eq_ofNat (v : Word) (n : Nat) : v <<< n = BitVec.ofNat 32 (v.toNat * 2 ^ n) :=
  congrArg (BitVec.ofNat 32) (Nat.shiftLeft_eq v.toNat n)

theorem ushiftRight_eq_ofNat (v : Word) (n : Nat) : v >>> n = BitVec.ofNat 32 (v.toNat / 2 ^ n) := by
  rw [← Nat.shiftRight_eq_div_pow, ← BitVec.toNat_ushiftRight, BitVec.ofNat_toNat, BitVec.setWidth_eq]

theorem sshiftRight_eq_ofInt (v : Word) (n : Nat) : v.sshiftRight n = BitVec.ofInt 32 (v.toInt / 2 ^ n) := by
  rw [BitVec.sshiftRight, Int.shiftRight_eq_div_pow, Nat.cast_pow, Nat.cast_ofNat]

theorem sub_eq_ofInt (a b : Word) : a - b = BitVec.ofInt 32 (a.toNat - b.toNat) := by
  rw [Int.sub_eq_add_neg, BitVec.ofInt_add, BitVec.ofInt_neg]
  simp only [BitVec.ofInt_natCast, BitVec.ofNat_toNat, BitVec.setWidth_eq, BitVec.sub_eq_add_neg]

/-! ## The instructions that write one register -/

/-- Settles O13: each writes the shifted value to `rd`, and a shift is a product or quotient by a power of two. -/
theorem shiftResults : Obligations.ShiftResults := by
  intro s rd rt rs sa
  refine ⟨⟨_, rfl, ?sll, onlyChanges_setReg ..⟩, ⟨_, rfl, ?srl, onlyChanges_setReg ..⟩,
    ⟨_, rfl, ?sra, onlyChanges_setReg ..⟩, ⟨_, rfl, ?sllv, onlyChanges_setReg ..⟩,
    ⟨_, rfl, ?srlv, onlyChanges_setReg ..⟩, ⟨_, rfl, ?srav, onlyChanges_setReg ..⟩⟩
  all_goals simp only [reg_setReg_self, shiftAmount_eq]
  case sll | sllv => exact shiftLeft_eq_ofNat _ _
  case srl | srlv => exact ushiftRight_eq_ofNat _ _
  case sra | srav => exact sshiftRight_eq_ofInt _ _

/-- Settles O14: each writes `rd`, a sum or difference, a bitwise combination, or a comparison's 1 or 0. -/
theorem registerAluResults : Obligations.RegisterAluResults := by
  intro s rd rs rt
  refine ⟨⟨_, rfl, ?addu, onlyChanges_setReg ..⟩, ⟨_, rfl, ?subu, onlyChanges_setReg ..⟩,
    ⟨_, rfl, ?and, onlyChanges_setReg ..⟩, ⟨_, rfl, ?or, onlyChanges_setReg ..⟩,
    ⟨_, rfl, ?xor, onlyChanges_setReg ..⟩, ⟨_, rfl, ?nor, onlyChanges_setReg ..⟩,
    ⟨_, rfl, ?less, ?notLess, onlyChanges_setReg ..⟩, ⟨_, rfl, ?below, ?notBelow, onlyChanges_setReg ..⟩⟩
  all_goals simp only [reg_setReg_self, boolWord_slt, boolWord_ult, Nat.cast_lt]
  case addu => rfl
  case subu => exact sub_eq_ofInt _ _
  case and => exact fun _ _ => BitVec.getLsbD_and
  case or => exact fun _ _ => BitVec.getLsbD_or
  case xor => exact fun _ _ => BitVec.getLsbD_xor
  case nor =>
    intro k hk
    rw [BitVec.getLsbD_not, decide_eq_true hk, Bool.true_and, BitVec.getLsbD_or]
  case less | below => exact fun h => if_pos h
  case notLess | notBelow => exact fun h => if_neg h

/-! ## The overflow warning (R172) -/

theorem outOfRange32_iff {r : Int} : outOfRange32 r = true ↔ r < -2 ^ 31 ∨ 2 ^ 31 ≤ r := by
  simp only [outOfRange32, Bool.or_eq_true, decide_eq_true_eq]

/-- Outside the signed range the overflow test is a warning. -/
theorem warnOverflow_of_overflow {r : Int} (s : State) (n : String) (h : r < -2 ^ 31 ∨ 2 ^ 31 ≤ r) :
    s.warnOverflow r n = s.warn n :=
  if_pos (outOfRange32_iff.2 h)

/-- Inside it the test does nothing. -/
theorem warnOverflow_of_inRange {r : Int} (s : State) (n : String) (h : -2 ^ 31 ≤ r ∧ r < 2 ^ 31) :
    s.warnOverflow r n = s :=
  if_neg fun o => (outOfRange32_iff.1 o).elim (not_lt.2 h.1) (not_le.2 h.2)

/-- The frame of a warning. -/
theorem onlyChanges_warn (s : State) (n : String) : OnlyChanges [.warnings] s (s.warn n) := by
  constructor <;> simp [State.reg, State.fw]

/-- The frame of a write that may warn. -/
theorem onlyChanges_warnedWrite (s : State) (n : String) (d : Reg) (r : Int) (v : Word) :
    OnlyChanges [.x d, .warnings] s ((s.warnOverflow r n).setReg d v) := by
  have write (t : State) : OnlyChanges [.x d, .warnings] t (t.setReg d v) := (onlyChanges_setReg t d v).mono (by simp)
  unfold State.warnOverflow
  split
  · exact ((onlyChanges_warn s n).mono (by simp)).trans (write _)
  · exact write s

/-- A write that may warn wraps the result, and warns exactly outside the signed range (R172). -/
theorem warnedWrite_completes (s : State) (n : String) (d : Reg) (r : Int) :
    ∃ t, warnedWrite n d r s = .next t ∧ (t.reg d).toInt = r.bmod (2 ^ 32) ∧
      (-2 ^ 31 ≤ r ∧ r < 2 ^ 31 → t.warnings = s.warnings) ∧
      (r < -2 ^ 31 ∨ 2 ^ 31 ≤ r → t.warnings = s.warnings ++ [(s.live.pc, n)]) ∧
      OnlyChanges [.x d, .warnings] s t :=
  ⟨_, rfl, (congrArg BitVec.toInt (reg_setReg_self ..)).trans (BitVec.toInt_ofInt r),
    fun h => (State.setLive_warnings ..).trans (congrArg State.warnings (warnOverflow_of_inRange s n h)),
    fun h => (State.setLive_warnings ..).trans (congrArg State.warnings (warnOverflow_of_overflow s n h)),
    onlyChanges_warnedWrite s n d r _⟩

/-- Settles O15: each is a write that may warn, `addi` with its immediate sign-extended. -/
theorem overflowWarnsAndWraps : Obligations.OverflowWarnsAndWraps := by
  intro s rd rs rt imm
  refine ⟨warnedWrite_completes .., warnedWrite_completes .., ?_⟩
  rw [← toInt_sextImm imm]
  exact warnedWrite_completes ..

end Sys2Proof.Machine
end

section
/-! PROOFS. The multiply and divide unit and the moves of hi and lo (R156 to R163). -/

namespace Sys2Proof.Machine

/-! ## Writes of hi and lo -/

/-- The frame of `lo` written. -/
theorem onlyChanges_setLo (s : State) (v : Word) : OnlyChanges [.lo] s (s.setLo v) := by
  constructor <;> simp [State.reg, State.fw]

/-- The frame of `hi` written. -/
theorem onlyChanges_setHi (s : State) (v : Word) : OnlyChanges [.hi] s (s.setHi v) := by
  constructor <;> simp [State.reg, State.fw]

/-- The frame of both written. -/
theorem onlyChanges_setHiLo (s : State) (h l : Word) : OnlyChanges [.lo, .hi] s (s.setHiLo h l) :=
  ((onlyChanges_setLo s l).mono (by simp)).trans ((onlyChanges_setHi _ h).mono (by simp))

@[simp] theorem setHiLo_lo (s : State) (h l : Word) : (s.setHiLo h l).live.lo = l := rfl

@[simp] theorem setHiLo_hi (s : State) (h l : Word) : (s.setHiLo h l).live.hi = h := rfl

/-! ## Products -/

/-- A product's halves, written to `hi` and `lo`, put together again. -/
theorem writeProduct_completes (p : Int) (s : State) :
    ∃ t, writeProduct p s = .next t ∧ (t.live.hi ++ t.live.lo : BitVec 64) = BitVec.ofInt 64 p ∧
      OnlyChanges [.lo, .hi] s t :=
  ⟨_, rfl, BitVec.extractLsb'_append_extractLsb', onlyChanges_setHiLo ..⟩

/-- No signed product of two words overflows a doubleword. -/
theorem toInt_ofInt_mul (a b : Word) : (BitVec.ofInt 64 (a.toInt * b.toInt)).toInt = a.toInt * b.toInt := by
  have lower : -2 ^ 62 ≤ a.toInt * b.toInt := BitVec.le_toInt_mul_toInt
  have upper : a.toInt * b.toInt ≤ 2 ^ 62 := BitVec.toInt_mul_toInt_le
  rw [BitVec.toInt_ofInt]
  exact Int.bmod_eq_of_le (by omega) (by omega)

/-- No unsigned product of two words overflows a doubleword. -/
theorem toNat_ofInt_mul (a b : Word) : (BitVec.ofInt 64 (a.toNat * b.toNat : Nat)).toNat = a.toNat * b.toNat := by
  have upper : a.toNat * b.toNat < 2 ^ 32 * 2 ^ 32 := Nat.mul_lt_mul'' a.isLt b.isLt
  rw [BitVec.ofInt_natCast, BitVec.toNat_ofNat]
  exact Nat.mod_eq_of_lt upper

/-- Settles O17: the halves of an exact product, and the one register each move writes. -/
theorem multiplyAndHiLoResults : Obligations.MultiplyAndHiLoResults := by
  intro s rd rs rt
  refine ⟨?mult, ?multu, ⟨_, rfl, reg_setReg_self .., onlyChanges_setReg ..⟩,
    ⟨_, rfl, reg_setReg_self .., onlyChanges_setReg ..⟩, ⟨_, rfl, rfl, onlyChanges_setHi ..⟩,
    ⟨_, rfl, rfl, onlyChanges_setLo ..⟩⟩
  case mult =>
    obtain ⟨t, run, product, frame⟩ := writeProduct_completes ((s.reg rs).toInt * (s.reg rt).toInt) s
    exact ⟨t, run, (congrArg BitVec.toInt product).trans (toInt_ofInt_mul ..), frame⟩
  case multu =>
    obtain ⟨t, run, product, frame⟩ := writeProduct_completes ((s.reg rs).toNat * (s.reg rt).toNat : Nat) s
    exact ⟨t, run, (congrArg BitVec.toNat product).trans (toNat_ofInt_mul ..), frame⟩

/-! ## Quotients and remainders as words -/

theorem toInt_eq_zero_iff {v : Word} : v.toInt = 0 ↔ v = 0 := BitVec.toInt_inj (y := 0#32)

theorem toInt_overflow_iff {a b : Word} :
    a.toInt = -2 ^ 31 ∧ b.toInt = -1 ↔ a = 0x80000000#32 ∧ b = 0xFFFFFFFF#32 :=
  and_congr (BitVec.toInt_inj (y := 0x80000000#32)) (BitVec.toInt_inj (y := 0xFFFFFFFF#32))

/-- Outside the overflow corner a quotient toward zero is a signed word. -/
theorem toInt_ofInt_tdiv {a b : Word} (h : ¬(a = 0x80000000#32 ∧ b = 0xFFFFFFFF#32)) :
    (BitVec.ofInt 32 (a.toInt.tdiv b.toInt)).toInt = a.toInt.tdiv b.toInt := by
  rw [← BitVec.toInt_sdiv_of_ne_or_ne a b (not_and_or.1 h), BitVec.ofInt_toInt]

/-- A remainder toward zero always is a signed word. -/
theorem toInt_ofInt_tmod (a b : Word) : (BitVec.ofInt 32 (a.toInt.tmod b.toInt)).toInt = a.toInt.tmod b.toInt := by
  rw [← BitVec.toInt_srem, BitVec.ofInt_toInt]

theorem toNat_ofNat_div (a b : Word) : (BitVec.ofNat 32 (a.toNat / b.toNat)).toNat = a.toNat / b.toNat := by
  rw [← BitVec.toNat_udiv, BitVec.ofNat_toNat, BitVec.setWidth_eq]

theorem toNat_ofNat_mod (a b : Word) : (BitVec.ofNat 32 (a.toNat % b.toNat)).toNat = a.toNat % b.toNat := by
  rw [← BitVec.toNat_umod, BitVec.ofNat_toNat, BitVec.setWidth_eq]

/-- A remainder toward zero has the dividend's sign, or is 0. -/
theorem tmod_eq_zero_or_neg_iff (a b : Int) : a.tmod b = 0 ∨ (a.tmod b < 0 ↔ a < 0) := by
  by_cases h : b ∣ a
  · exact .inl (Int.tmod_eq_zero_of_dvd h)
  · have sign : (a.tmod b).sign = a.sign := (Int.sign_tmod a b).trans (if_neg h)
    exact .inr (by rw [← Int.sign_eq_neg_one_iff_neg, sign, Int.sign_eq_neg_one_iff_neg])

/-! ## The cases of a divide (R158, R159) -/

section
variable {s : State} {rs rt : Reg}

theorem execDiv_of_zero (h : s.reg rt = 0) : execDiv rs rt s = divideByZero "div" s :=
  if_pos (toInt_eq_zero_iff.2 h)

theorem execDiv_of_overflow (ha : s.reg rs = 0x80000000#32) (hb : s.reg rt = 0xFFFFFFFF#32) :
    execDiv rs rt s = divideOverflow s :=
  (if_neg (by rw [hb]; decide)).trans (if_pos (toInt_overflow_iff.2 ⟨ha, hb⟩))

theorem execDiv_of_regular (h0 : s.reg rt ≠ 0) (h : ¬(s.reg rs = 0x80000000#32 ∧ s.reg rt = 0xFFFFFFFF#32)) :
    execDiv rs rt s = .next (s.setHiLo (BitVec.ofInt 32 ((s.reg rs).toInt.tmod (s.reg rt).toInt))
      (BitVec.ofInt 32 ((s.reg rs).toInt.tdiv (s.reg rt).toInt))) :=
  (if_neg (mt toInt_eq_zero_iff.1 h0)).trans (if_neg (mt toInt_overflow_iff.1 h))

theorem execDivu_of_zero (h : s.reg rt = 0) : execDivu rs rt s = divideByZero "divu" s :=
  if_pos (congrArg BitVec.toNat h)

theorem execDivu_of_ne_zero (h : s.reg rt ≠ 0) :
    execDivu rs rt s = .next (s.setHiLo (BitVec.ofNat 32 ((s.reg rs).toNat % (s.reg rt).toNat))
      (BitVec.ofNat 32 ((s.reg rs).toNat / (s.reg rt).toNat))) :=
  if_neg fun e => h (BitVec.eq_of_toNat_eq e)

/-- Division by zero as a fault. -/
theorem divideByZero_fault (n : String) (h : s.params.divZero = .fault) (hr : s.faultRecord = none) :
    ∃ t, divideByZero n s = .next t ∧ t.faultRecord = some (.divideCorner s.live.pc n) ∧
      OnlyChanges [.faultRecord] s t := by
  rw [divideByZero, h]
  exact raise_completes _ hr

/-- Division by zero as two free values. -/
theorem divideByZero_draw (n : String) (h : s.params.divZero = .draw) :
    ∃ t, divideByZero n s = .next t ∧ OnlyChanges [.lo, .hi, .draws] s t := by
  rw [divideByZero, h]
  exact ⟨_, rfl, ((onlyChanges_setHiLo ..).mono (by simp)).trans ((onlyChanges_useDraws ..).mono (by simp))⟩

/-- The overflow corner as a fault. -/
theorem divideOverflow_fault (h : s.params.divOvf = .fault) (hr : s.faultRecord = none) :
    ∃ t, divideOverflow s = .next t ∧ t.faultRecord = some (.divideCorner s.live.pc "div") ∧
      OnlyChanges [.faultRecord] s t := by
  rw [divideOverflow, h]
  exact raise_completes _ hr

/-- The overflow corner as MIPS32 wraps it. -/
theorem divideOverflow_mips (h : s.params.divOvf = .mips) : divideOverflow s = .next (s.setHiLo 0 0x80000000#32) := by
  rw [divideOverflow, h]

end

/-- An instruction completes as the operation does that it is in this state. -/
theorem completes_of_exec_eq {i : Instr} {s : State} {r : Res} {P : State → Prop} (h : exec i s = r)
    (k : ∃ t, r = .next t ∧ P t) : Completes i s P := by
  rwa [Completes, h]

/-- Settles O18: outside the corners `hi` and `lo` are the remainder and the quotient. -/
theorem divideResults : Obligations.DivideResults := by
  intro s rs rt h0
  refine ⟨fun h => ⟨_, execDiv_of_regular h0 h, ?parts, ?bound, ?sign, onlyChanges_setHiLo ..⟩,
    ⟨_, execDivu_of_ne_zero h0, ?partsu, ?boundu, onlyChanges_setHiLo ..⟩⟩
  all_goals simp only [setHiLo_lo, setHiLo_hi, toInt_ofInt_tmod, toNat_ofNat_div, toNat_ofNat_mod]
  case parts => rw [toInt_ofInt_tdiv h, Int.tdiv_mul_add_tmod]
  case bound =>
    rw [Int.natAbs_tmod]
    exact Nat.mod_lt _ (Int.natAbs_pos.2 (mt toInt_eq_zero_iff.1 h0))
  case sign => exact tmod_eq_zero_or_neg_iff _ _
  case partsu => rw [Nat.mul_comm, Nat.div_add_mod]
  case boundu => exact Nat.mod_lt _ (Nat.pos_of_ne_zero fun e => h0 (BitVec.eq_of_toNat_eq e))

/-- Settles O19: each corner by its setting. -/
theorem divideCorners : Obligations.DivideCorners := by
  intro s rs rt hr
  refine ⟨fun h0 mode => ⟨?_, ?_⟩, fun h0 mode => ⟨?_, ?_⟩, fun ha hb mode => ?_, fun ha hb mode => ?_⟩
  · exact completes_of_exec_eq (execDiv_of_zero h0) (divideByZero_fault "div" mode hr)
  · exact completes_of_exec_eq (execDivu_of_zero h0) (divideByZero_fault "divu" mode hr)
  · exact completes_of_exec_eq (execDiv_of_zero h0) (divideByZero_draw "div" mode)
  · exact completes_of_exec_eq (execDivu_of_zero h0) (divideByZero_draw "divu" mode)
  · exact completes_of_exec_eq (execDiv_of_overflow ha hb) (divideOverflow_fault mode hr)
  · exact ⟨_, (execDiv_of_overflow ha hb).trans (divideOverflow_mips mode), rfl, rfl, onlyChanges_setHiLo ..⟩

end Sys2Proof.Machine
end

section
/-! PROOFS. The branches and the jumps (R201 to R223). -/

namespace Sys2Proof.Machine

variable {s : State}

/-! ## Targets as numbers (R201, R220) -/

theorem branchTarget_eq (s : State) (offset : BitVec 16) :
    s.branchTarget offset = s.live.npc + BitVec.ofInt 32 (4 * offset.toInt) := by
  rw [State.branchTarget, branchDisp, BitVec.signExtend, BitVec.toInt_append_zero]
  rfl

theorem jumpTarget_toNat (s : State) (target : BitVec 26) :
    (s.jumpTarget target).toNat = s.live.npc.toNat / 2 ^ 28 * 2 ^ 28 + target.toNat * 4 := by
  have region : s.live.npc.toNat / 2 ^ 28 < 2 ^ 4 := Nat.div_lt_of_lt_mul s.live.npc.isLt
  have low (n : Nat) : n <<< 26 ||| target.toNat = n * 2 ^ 26 + target.toNat := by
    rw [← Nat.shiftLeft_add_eq_or_of_lt target.isLt, Nat.shiftLeft_eq]
  calc
    (s.jumpTarget target).toNat
      = ((s.live.npc.toNat / 2 ^ 28 % 2 ^ 4) <<< 26 ||| target.toNat) <<< 2 := by
        rw [State.jumpTarget, jumpTargetFrom, BitVec.toNat_append, BitVec.toNat_append, BitVec.extractLsb'_toNat,
          Nat.shiftRight_eq_div_pow]
        exact Nat.or_zero _
    _ = (s.live.npc.toNat / 2 ^ 28 * 2 ^ 26 + target.toNat) * 4 := by
        rw [Nat.mod_eq_of_lt region, low, Nat.shiftLeft_eq]
    _ = s.live.npc.toNat / 2 ^ 28 * 2 ^ 28 + target.toNat * 4 := by omega

/-! ## Writes of the counters, and links -/

/-- The frame of `nnpc` written. -/
theorem onlyChanges_setNnpc (s : State) (v : Word) : OnlyChanges [.nnpc] s (s.setNnpc v) := by
  constructor <;> simp [State.reg, State.fw]

/-- The frame of `npc` written. -/
theorem onlyChanges_setNpc (s : State) (v : Word) : OnlyChanges [.npc] s (s.setNpc v) := by
  constructor <;> simp [State.reg, State.fw]

/-- The frame of nothing written. -/
theorem OnlyChanges.refl (s : State) : OnlyChanges [] s s := by
  constructor <;> simp

@[simp] theorem linkThenJump_reg (d : Reg) (a : Word) (s : State) : (linkThenJump d a s).reg d = s.live.nnpc :=
  reg_setReg_self s d _

/-- The frame of a link and a jump (R204). -/
theorem onlyChanges_linkThenJump (d : Reg) (a : Word) (s : State) : OnlyChanges [.x d, .nnpc] s (linkThenJump d a s) :=
  ((onlyChanges_setReg s d _).mono (by simp)).trans ((onlyChanges_setNnpc _ a).mono (by simp))

/-! ## The shared operations -/

/-- A branch taken (R202). -/
theorem branchIf_true_completes (offset : BitVec 16) (s : State) :
    ∃ t, branchIf true offset s = .next t ∧
      t.live.nnpc = s.live.npc + BitVec.ofInt 32 (4 * offset.toInt) ∧ OnlyChanges [.nnpc] s t :=
  ⟨_, rfl, branchTarget_eq s offset, onlyChanges_setNnpc ..⟩

/-- A branch not taken (R202). -/
theorem branchIf_false_completes (offset : BitVec 16) (s : State) :
    ∃ t, branchIf false offset s = .next t ∧ OnlyChanges [] s t :=
  ⟨_, rfl, .refl s⟩

/-- A branch on a condition (R202). -/
theorem branchIf_completes {c : Bool} {cond : Prop} (hc : c = true ↔ cond) (offset : BitVec 16) (s : State) :
    ∃ t, branchIf c offset s = .next t ∧
      (cond → t.live.nnpc = s.live.npc + BitVec.ofInt 32 (4 * offset.toInt)) ∧
      (¬cond → t.live.nnpc = s.live.nnpc) ∧ OnlyChanges [.nnpc] s t := by
  cases c with
  | true =>
    obtain ⟨t, ht, target, frame⟩ := branchIf_true_completes offset s
    exact ⟨t, ht, fun _ => target, fun h => absurd (hc.1 rfl) h, frame⟩
  | false =>
    obtain ⟨t, ht, frame⟩ := branchIf_false_completes offset s
    exact ⟨t, ht, fun h => absurd (hc.2 h) nofun, fun _ => frame.nnpc nofun, frame.mono (List.nil_subset _)⟩

/-- A likely branch taken (R203). -/
theorem branchLikelyIf_true_completes (offset : BitVec 16) (s : State) :
    ∃ t, branchLikelyIf true offset s = .next t ∧
      t.live.nnpc = s.live.npc + BitVec.ofInt 32 (4 * offset.toInt) ∧ OnlyChanges [.nnpc] s t :=
  branchIf_true_completes offset s

/-- A likely branch not taken skips its slot (R203). -/
theorem branchLikelyIf_false_completes (offset : BitVec 16) (s : State) :
    ∃ t, branchLikelyIf false offset s = .next t ∧ t.live.npc = s.live.npc + 4 ∧ t.live.nnpc = s.live.nnpc + 4 ∧
      OnlyChanges [.npc, .nnpc] s t :=
  ⟨_, rfl, rfl, rfl, ((onlyChanges_setNpc ..).mono (by simp)).trans ((onlyChanges_setNnpc ..).mono (by simp))⟩

/-- A linking branch on a condition (R204, R214). -/
theorem linkThenBranchIf_completes {c : Bool} {cond : Prop} (hc : c = true ↔ cond) (offset : BitVec 16) (s : State) :
    ∃ t, linkThenBranchIf c offset s = .next t ∧ t.reg 31 = s.live.nnpc ∧
      (cond → t.live.nnpc = s.live.npc + BitVec.ofInt 32 (4 * offset.toInt)) ∧
      (¬cond → t.live.nnpc = s.live.nnpc) ∧ OnlyChanges [.x 31, .nnpc] s t := by
  cases c with
  | true =>
    exact ⟨_, rfl, linkThenJump_reg .., fun _ => branchTarget_eq s offset, fun h => absurd (hc.1 rfl) h,
      onlyChanges_linkThenJump ..⟩
  | false =>
    exact ⟨_, rfl, reg_setReg_self .., fun h => absurd (hc.2 h) nofun, fun _ => rfl,
      (onlyChanges_setReg ..).mono (by simp)⟩

/-- Registers that differ, or a clash under `readFirst`: the instruction goes on (R214, R223). -/
theorem unlessClash_of_ne_or_readFirst {a b : Reg} {mode : Config.LinkClash} (h : a ≠ b ∨ mode = .readFirst)
    (n : String) (s : State) (k : Res) : unlessClash (a == b) mode n s k = k := by
  obtain ne | rfl := h
  · rw [beq_false_of_ne ne, unlessClash_false]
  · exact unlessClash_readFirst ..

/-- One register for both, under `fault`: the fault and nothing else (R214, R223). -/
theorem unlessClash_self_completes (a : Reg) {mode : Config.LinkClash} (h : mode = .fault) (hr : s.faultRecord = none)
    (n : String) (k : Res) :
    ∃ t, unlessClash (a == a) mode n s k = .next t ∧
      t.faultRecord = some (.unpredictableOperands s.live.pc n) ∧ OnlyChanges [.faultRecord] s t := by
  rw [beq_self_eq_true, h, unlessClash_fault]
  exact raise_completes _ hr

/-! ## The branches and the jumps -/

/-- Settles O20: each is a branch on its condition. -/
theorem conditionalBranches : Obligations.ConditionalBranches := by
  intro s rs rt offset
  exact ⟨branchIf_completes (iff_of_true rfl trivial) .., branchIf_completes beq_iff_eq ..,
    branchIf_completes bne_iff_ne .., branchIf_completes decide_eq_true_iff ..,
    branchIf_completes decide_eq_true_iff .., branchIf_completes decide_eq_true_iff ..,
    branchIf_completes decide_eq_true_iff ..⟩

/-- Settles O21: each is a linking branch on its condition, unless its registers clash. -/
theorem linkingBranches : Obligations.LinkingBranches := by
  intro s rs offset
  refine ⟨linkThenBranchIf_completes (c := true) (iff_of_true rfl trivial) offset s, fun h => ⟨?_, ?_⟩,
    fun hr mode => ⟨unlessClash_self_completes 31 mode hr .., unlessClash_self_completes 31 mode hr ..⟩⟩
  · exact completes_of_exec_eq (unlessClash_of_ne_or_readFirst h ..) (linkThenBranchIf_completes decide_eq_true_iff ..)
  · exact completes_of_exec_eq (unlessClash_of_ne_or_readFirst h ..) (linkThenBranchIf_completes decide_eq_true_iff ..)

/-- Settles O22: each writes its target to `nnpc`, `jal` and `jalr` after a link. -/
theorem jumps : Obligations.Jumps := by
  intro s rd rs target
  exact ⟨⟨_, rfl, jumpTarget_toNat s target, onlyChanges_setNnpc ..⟩,
    ⟨_, rfl, jumpTarget_toNat s target, linkThenJump_reg .., onlyChanges_linkThenJump ..⟩,
    ⟨_, rfl, rfl, onlyChanges_setNnpc ..⟩,
    fun h => ⟨_, unlessClash_of_ne_or_readFirst h .., rfl, linkThenJump_reg .., onlyChanges_linkThenJump ..⟩,
    fun hr mode => unlessClash_self_completes rs mode hr ..⟩

/-- What the branches on a condition bit are, by the bit's value (R216 to R219). -/
theorem exec_bc1 {cc : BitVec 3} {b : Bool} (bit : s.fcc cc = b) (offset : BitVec 16) :
    exec (.bc1f cc offset) s = branchIf (!b) offset s ∧ exec (.bc1t cc offset) s = branchIf b offset s ∧
      exec (.bc1fl cc offset) s = branchLikelyIf (!b) offset s ∧
      exec (.bc1tl cc offset) s = branchLikelyIf b offset s := by
  subst bit
  exact ⟨rfl, rfl, rfl, rfl⟩

/-- Settles O23: each is a branch, or a likely one, on its condition bit or on the bit's negation. -/
theorem conditionBitBranches : Obligations.ConditionBitBranches := by
  intro s cc offset
  refine ⟨fun bit => ?_, fun bit => ?_⟩
  all_goals
    obtain ⟨f, t, fl, tl⟩ := exec_bc1 bit offset
    simp only [Completes, f, t, fl, tl]
    exact ⟨branchIf_true_completes .., branchIf_false_completes .., branchLikelyIf_true_completes ..,
      branchLikelyIf_false_completes ..⟩

/-! ## Where control goes (R205) -/

/-- Where a result is no fault, an unconditional instruction has gone to `a`, and a conditional one has gone there, left
`nnpc`, or moved it on by 4. -/
def GoesTo (i : Instr) (a : Word) (s : State) (r : Res) : Prop :=
  ∀ t, r = .next t → t.faultRecord = none →
    (StaticFlag.uncond ∈ flagsOf i → t.live.nnpc = a) ∧
    (StaticFlag.cond ∈ flagsOf i →
      t.live.nnpc = a ∨ t.live.nnpc = s.live.nnpc ∨ t.live.nnpc = s.live.nnpc + 4)

section
variable {t : State} {i : Instr} {a : Word}

/-- An instruction that goes to its target. -/
theorem GoesTo.taken (h : t.live.nnpc = a) : GoesTo i a s (.next t) := by
  rintro _ ⟨⟩ -
  exact ⟨fun _ => h, fun _ => .inl h⟩

/-- A conditional one that does not. -/
theorem GoesTo.notTaken (hu : StaticFlag.uncond ∉ flagsOf i)
    (h : t.live.nnpc = s.live.nnpc ∨ t.live.nnpc = s.live.nnpc + 4) : GoesTo i a s (.next t) := by
  rintro _ ⟨⟩ -
  exact ⟨fun u => absurd u hu, fun _ => .inr h⟩

theorem goesTo_raise (f : Fault) : GoesTo i a s (raise f s) := by
  rintro _ ⟨⟩ none
  exact absurd none (Option.some_ne_none _)

theorem goesTo_branchIf (hu : StaticFlag.uncond ∉ flagsOf i) (c : Bool) (offset : BitVec 16) :
    GoesTo i (s.branchTarget offset) s (branchIf c offset s) := by
  cases c with
  | true => exact .taken rfl
  | false => exact .notTaken hu (.inl rfl)

theorem goesTo_branchLikelyIf (hu : StaticFlag.uncond ∉ flagsOf i) (c : Bool) (offset : BitVec 16) :
    GoesTo i (s.branchTarget offset) s (branchLikelyIf c offset s) := by
  cases c with
  | true => exact .taken rfl
  | false => exact .notTaken hu (.inr rfl)

theorem goesTo_linkThenBranchIf (hu : StaticFlag.uncond ∉ flagsOf i) (c : Bool) (offset : BitVec 16) :
    GoesTo i (s.branchTarget offset) s (linkThenBranchIf c offset s) := by
  cases c with
  | true => exact .taken rfl
  | false => exact .notTaken hu (.inl rfl)

theorem goesTo_unlessClash {c : Bool} {mode : Config.LinkClash} {n : String} {k : Res} (h : GoesTo i a s k) :
    GoesTo i a s (unlessClash c mode n s k) := by
  cases c <;> cases mode
  case true.fault => exact goesTo_raise _
  all_goals exact h

/-- An instruction with a target goes there, by what it is made of. -/
theorem exec_goesTo (h : leafTargetPc s (.instr i) = some a) : GoesTo i a s (exec i s) := by
  cases i <;> cases h
  case b | bal | j | jal | jr => exact .taken rfl
  case jalr => exact goesTo_unlessClash (.taken rfl)
  case beq | bne | blez | bgtz | bltz | bgez | bc1f | bc1t => exact goesTo_branchIf (of_decide_eq_false rfl) _ _
  case bc1fl | bc1tl => exact goesTo_branchLikelyIf (of_decide_eq_false rfl) _ _
  case bltzal | bgezal => exact goesTo_unlessClash (goesTo_linkThenBranchIf (of_decide_eq_false rfl) _ _)

end

/-- Settles O46, by where each control instruction's operation goes. -/
theorem targetPcIsWhereControlGoes : Obligations.TargetPcIsWhereControlGoes := by
  intro s t i a h hf target
  exact exec_goesTo target t h hf

end Sys2Proof.Machine
end

section
/-! PROOFS. The loads of a general register, and the partial-word pairs (R240 to R252, R263). -/

namespace Sys2Proof.Machine

variable {s : State}

/-! ## Loads of a general register -/

/-- The effective address as a number (R240). -/
theorem toInt_effAddr (s : State) (base : Reg) (offset : BitVec 16) :
    (s.effAddr base offset).toInt = ((s.reg base).toInt + offset.toInt).bmod (2 ^ 32) := by
  rw [State.effAddr, BitVec.toInt_add, toInt_sextImm]

/-- A sign extension, from the unsigned value of what is extended (R17). -/
theorem signExtend_eq_ofInt_bmod {n : Nat} (v : BitVec n) :
    v.signExtend 32 = BitVec.ofInt 32 ((v.toNat : Int).bmod (2 ^ n)) := by
  rw [BitVec.signExtend, BitVec.toInt_eq_toNat_bmod]

/-- A zero extension likewise. -/
theorem setWidth_eq_ofInt {n : Nat} (v : BitVec n) : v.setWidth 32 = BitVec.ofInt 32 v.toNat := by
  rw [BitVec.ofInt_natCast, ← BitVec.setWidth_eq v, BitVec.ofNat_toNat]

/-- The state after a load: the value, `ea`, and the frame. -/
theorem loaded (s : State) (rt : Reg) (a v : Word) :
    ((s.setEa a).setReg rt v).reg rt = v ∧ ((s.setEa a).setReg rt v).live.ea = a ∧
      OnlyChanges [.x rt, .ea] s ((s.setEa a).setReg rt v) :=
  ⟨reg_setReg_self _ rt v, rfl,
    ((onlyChanges_setEa s a).mono (by simp)).trans ((onlyChanges_setReg _ rt v).mono (by simp))⟩

/-- A load whose access checks out writes `ea` and the value of memory (R62, R241). -/
theorem loadReg_completes {n : Nat} {value : Memory → Word → Word} {rt base : Reg} {offset : BitVec 16} {v : Word}
    (h : s.accessible (s.effAddr base offset) n) (hv : value s.mem (s.effAddr base offset) = v) :
    ∃ t, loadReg n value rt base offset s = .next t ∧
      t.reg rt = v ∧ t.live.ea = s.effAddr base offset ∧ OnlyChanges [.x rt, .ea] s t := by
  subst hv
  unfold loadReg
  exact ⟨_, accessing_ok (accessFault_of_accessible h), loaded s rt _ _⟩

/-- Settles O24: each load's value as the number that its bytes make. -/
theorem loadResults : Obligations.LoadResults := by
  intro s rt base offset a byte loads
  have byteValue : (s.mem.byteAt a).toNat = byte 0 := congrArg (fun b => (s.mem.byteAt b).toNat) (BitVec.add_zero a).symm
  have halfValue : ((s.mem.halfAt a).toNat : Int) = byte 0 + 2 ^ 8 * byte 1 := by
    simp [byte, Memory.halfAt_toNat, Nat.shiftLeft_eq, mul_comm]
  have wordValue : ((s.mem.wordAt a).toNat : Int) = byte 0 + 2 ^ 8 * byte 1 + 2 ^ 16 * byte 2 + 2 ^ 24 * byte 3 := by
    simp [byte, Memory.wordAt_toNat, Nat.shiftLeft_eq, mul_comm]
  have word := wordValue ▸ (BitVec.setWidth_eq _).symm.trans (setWidth_eq_ofInt (s.mem.wordAt a))
  have signedByte := byteValue ▸ signExtend_eq_ofInt_bmod (s.mem.byteAt a)
  have signedHalf := halfValue ▸ signExtend_eq_ofInt_bmod (s.mem.halfAt a)
  exact ⟨toInt_effAddr s base offset,
    fun h => ⟨loadReg_completes (value := fun m a => (m.byteAt a).signExtend 32) h signedByte,
      loadReg_completes (value := fun m a => (m.byteAt a).setWidth 32) h (byteValue ▸ setWidth_eq_ofInt _)⟩,
    fun h => ⟨loadReg_completes (value := fun m a => (m.halfAt a).signExtend 32) h signedHalf,
      loadReg_completes (value := fun m a => (m.halfAt a).setWidth 32) h (halfValue ▸ setWidth_eq_ofInt _)⟩,
    fun h => ⟨loadReg_completes h word, loadReg_completes h word⟩⟩

/-! ## lwl and lwr -/

/-- Byte `k` of what `lwl` loads: from the top down the bytes of memory from `bo` down, below them the register's own
(R251). -/
theorem extractLsb'_mergeLwl (w r : Word) {bo k : Nat} (hbo : bo < 4) (hk : k < 4) :
    (mergeLwl w r bo).extractLsb' (8 * k) 8 =
      if 3 ≤ bo + k then w.extractLsb' (8 * (bo + k - 3)) 8 else r.extractLsb' (8 * k) 8 := by
  apply BitVec.eq_of_getLsbD_eq
  intro j hj
  have inside : 8 * k + j < 32 := by omega
  rw [mergeLwl, BitVec.getLsbD_extractLsb', BitVec.getLsbD_or, BitVec.getLsbD_and, BitVec.getLsbD_shiftLeft,
    getLsbD_maskLow (by omega)]
  by_cases h : 3 ≤ bo + k
  · have high : ¬8 * k + j < 24 - 8 * bo := by omega
    have pos : 8 * k + j - (24 - 8 * bo) = 8 * (bo + k - 3) + j := by omega
    simp [h, hj, inside, high, pos]
  · have low : 8 * k + j < 24 - 8 * bo := by omega
    simp [h, hj, low]

/-- Byte `k` of what `lwr` loads: from the bottom up the bytes of memory from `bo` up, above them the register's own
(R252). -/
theorem extractLsb'_mergeLwr (w r : Word) {bo k : Nat} (hbo : bo < 4) (hk : k < 4) :
    (mergeLwr w r bo).extractLsb' (8 * k) 8 =
      if bo + k ≤ 3 then w.extractLsb' (8 * (bo + k)) 8 else r.extractLsb' (8 * k) 8 := by
  apply BitVec.eq_of_getLsbD_eq
  intro j hj
  have inside : 8 * k + j < 32 := by omega
  rw [mergeLwr, BitVec.getLsbD_extractLsb', BitVec.getLsbD_or, BitVec.getLsbD_and, BitVec.getLsbD_shiftLeft,
    BitVec.getLsbD_ushiftRight, getLsbD_maskLow (by omega)]
  by_cases h : bo + k ≤ 3
  · have low : 8 * k + j < 32 - 8 * bo := by omega
    have pos : 8 * bo + (8 * k + j) = 8 * (bo + k) + j := by omega
    simp [h, hj, low, pos]
  · have high : ¬8 * k + j < 32 - 8 * bo := by omega
    have mask : 8 * k + j - (32 - 8 * bo) < 8 * bo := by omega
    have past : 32 ≤ 8 * bo + (8 * k + j) := by omega
    simp [h, hj, inside, high, mask, BitVec.getLsbD_of_ge _ _ past]

/-- What `lwl` makes of a register's value: the word of `a` merged into it (R251). -/
def lwlValue (m : Memory) (a r : Word) : Word := mergeLwl (m.wordAt (alignWord a)) r (a.toNat % 4)

/-- What `lwr` makes of a register's value (R252). -/
def lwrValue (m : Memory) (a r : Word) : Word := mergeLwr (m.wordAt (alignWord a)) r (a.toNat % 4)

/-- An address counted on and back. -/
theorem add_ofNat_sub (a : Word) {i j : Nat} (h : j ≤ i) :
    a + BitVec.ofNat 32 i - BitVec.ofNat 32 j = a + BitVec.ofNat 32 (i - j) := by
  rw [sub_eq_iff_eq_add, ← add_ofNat_add, Nat.sub_add_cancel h]

/-- An address at or below another in its word, from the word's start. -/
theorem sub_ofNat_eq (a : Word) {j : Nat} (h : j ≤ a.toNat % 4) :
    a - BitVec.ofNat 32 j = alignWord a + BitVec.ofNat 32 (a.toNat % 4 - j) := by
  rw [← add_ofNat_sub _ h, alignWord_add]

/-- Byte by byte from the top, `lwl` takes the bytes from the address down to the word's start (R251). -/
theorem extractLsb'_lwlValue (m : Memory) (a r : Word) {j : Nat} (hj : j < 4) :
    (lwlValue m a r).extractLsb' (8 * (3 - j)) 8 =
      if j ≤ a.toNat % 4 then m.byteAt (a - BitVec.ofNat 32 j) else r.extractLsb' (8 * (3 - j)) 8 := by
  rw [lwlValue, extractLsb'_mergeLwl _ _ (Nat.mod_lt _ (by decide)) (by omega)]
  by_cases h : j ≤ a.toNat % 4
  · have pos : a.toNat % 4 + (3 - j) - 3 = a.toNat % 4 - j := by omega
    rw [if_pos h, if_pos (by omega), pos, Memory.extractLsb'_wordAt _ _ (by omega), sub_ofNat_eq a h]
  · rw [if_neg h, if_neg (by omega)]

/-- Byte by byte from the bottom, `lwr` takes the bytes from the address up to the word's end (R252). -/
theorem extractLsb'_lwrValue (m : Memory) (a r : Word) {j : Nat} (hj : j < 4) :
    (lwrValue m a r).extractLsb' (8 * j) 8 =
      if a.toNat % 4 + j ≤ 3 then m.byteAt (a + BitVec.ofNat 32 j) else r.extractLsb' (8 * j) 8 := by
  rw [lwrValue, extractLsb'_mergeLwr _ _ (Nat.mod_lt _ (by decide)) hj]
  by_cases h : a.toNat % 4 + j ≤ 3
  · rw [if_pos h, if_pos h, Memory.extractLsb'_wordAt _ _ (by omega), add_ofNat_add, alignWord_add]
  · rw [if_neg h, if_neg h]

/-- A partial-word load whose word is mapped writes `ea` and the merged value (R244). -/
theorem loadPartial_ok {merge : Word → Word → Nat → Word} {rt base : Reg} {offset : BitVec 16} {a : Word}
    (ha : s.effAddr base offset = a) (h : s.mappedBytes (alignWord a) 4) :
    loadPartial merge rt base offset s = .next ((s.setEa (alignWord a)).setReg rt
      (merge (s.mem.wordAt (alignWord a)) (s.reg rt) (a.toNat % 4))) := by
  subst ha
  unfold loadPartial
  rw [← byteOffset_eq]
  exact accessing_ok (accessFault_alignWord h)

/-- `lwl` and `lwr` of a mapped word (R251, R252). -/
theorem exec_lwl {rt base : Reg} {offset : BitVec 16} {a : Word}
    (ha : s.effAddr base offset = a) (h : s.mappedBytes (alignWord a) 4) :
    exec (.lwl rt base offset) s = .next ((s.setEa (alignWord a)).setReg rt (lwlValue s.mem a (s.reg rt))) :=
  loadPartial_ok ha h

theorem exec_lwr {rt base : Reg} {offset : BitVec 16} {a : Word}
    (ha : s.effAddr base offset = a) (h : s.mappedBytes (alignWord a) 4) :
    exec (.lwr rt base offset) s = .next ((s.setEa (alignWord a)).setReg rt (lwrValue s.mem a (s.reg rt))) :=
  loadPartial_ok ha h

/-- Settles O25, by the bytes that each merge takes from memory and keeps. -/
theorem partialLoadResults : Obligations.PartialLoadResults := by
  intro s rt base offset ea bo h
  have start : (alignWord ea).toNat = ea.toNat / 4 * 4 := by
    rw [alignWord_toNat]; omega
  obtain ⟨leftValue, -, leftFrame⟩ := loaded s rt (alignWord ea) (lwlValue s.mem ea (s.reg rt))
  obtain ⟨rightValue, -, rightFrame⟩ := loaded s rt (alignWord ea) (lwrValue s.mem ea (s.reg rt))
  refine ⟨⟨_, exec_lwl rfl h, fun j hj => ?_, start, leftFrame⟩, ⟨_, exec_lwr rfl h, fun j hj => ?_, start, rightFrame⟩⟩
  · rw [leftValue, extractLsb'_lwlValue _ _ _ hj]
  · rw [rightValue, extractLsb'_lwrValue _ _ _ hj]

/-! ## The pairs over an unaligned word -/

/-- A word is its four bytes. -/
theorem eq_of_bytes_eq {v w : Word} (h : ∀ i < 4, v.extractLsb' (8 * i) 8 = w.extractLsb' (8 * i) 8) : v = w := by
  apply BitVec.eq_of_getLsbD_eq
  intro k hk
  have bit := congrArg (BitVec.getLsbD · (k % 8)) (h (k / 8) (by omega))
  simpa [Nat.mod_lt, Nat.div_add_mod] using bit

/-- The offset of the address 3 past an address, within its word. -/
theorem toNat_add_three_mod (a : Word) : (a + 3).toNat % 4 = (a.toNat + 3) % 4 := by
  rw [BitVec.toNat_add]
  show (a.toNat + 3) % 2 ^ 32 % 4 = _
  omega

/-- The word of the address 3 past an address. -/
theorem alignWord_add_three (a : Word) : alignWord (a + 3) = a + BitVec.ofNat 32 (3 - (a + 3).toNat % 4) := by
  have start := sub_ofNat_eq (a + 3) le_rfl
  rw [Nat.sub_self] at start
  exact ((BitVec.add_zero _).symm.trans start.symm).trans (add_ofNat_sub a (i := 3) (by omega))

/-- `lwl` at `a + 3` completes what `lwr` at `a` began: the word of bytes `a .. a + 3` (R263). -/
theorem lwlValue_lwrValue (m : Memory) (a r : Word) : lwlValue m (a + 3) (lwrValue m a r) = m.wordAt a := by
  refine eq_of_bytes_eq fun i hi => ?_
  obtain ⟨j, hj, rfl⟩ : ∃ j < 4, i = 3 - j := ⟨3 - i, by omega, by omega⟩
  have down : a + 3 - BitVec.ofNat 32 j = a + BitVec.ofNat 32 (3 - j) := add_ofNat_sub a (i := 3) (by omega)
  rw [extractLsb'_lwlValue _ _ _ hj, extractLsb'_lwrValue _ _ _ hi, Memory.extractLsb'_wordAt _ _ hi, down,
    toNat_add_three_mod]
  split_ifs
  · rfl
  · rfl
  · omega

/-- At an aligned address `lwr` alone loads the word. -/
theorem lwrValue_aligned (m : Memory) {a : Word} (r : Word) (h : a.toNat % 4 = 0) : lwrValue m a r = m.wordAt a := by
  refine eq_of_bytes_eq fun i hi => ?_
  rw [extractLsb'_lwrValue _ _ _ hi, Memory.extractLsb'_wordAt _ _ hi, if_pos (by omega)]

/-- Memory after `swl` of a register's value (R259). -/
def swlMemory (m : Memory) (a r : Word) : Memory :=
  m.setWord (alignWord a) (mergeSwl (m.wordAt (alignWord a)) r (a.toNat % 4))

/-- Memory after `swr` (R260). -/
def swrMemory (m : Memory) (a r : Word) : Memory :=
  m.setWord (alignWord a) (mergeSwr (m.wordAt (alignWord a)) r (a.toNat % 4))

/-- `swl` and `swr` of a mapped word. -/
theorem exec_swl {rt base : Reg} {offset : BitVec 16} {a : Word}
    (ha : s.effAddr base offset = a) (h : s.mappedBytes (alignWord a) 4) :
    exec (.swl rt base offset) s = .next ((s.setEa (alignWord a)).setMem (swlMemory s.mem a (s.reg rt))) :=
  storePartial_ok ha h

theorem exec_swr {rt base : Reg} {offset : BitVec 16} {a : Word}
    (ha : s.effAddr base offset = a) (h : s.mappedBytes (alignWord a) 4) :
    exec (.swr rt base offset) s = .next ((s.setEa (alignWord a)).setMem (swrMemory s.mem a (s.reg rt))) :=
  storePartial_ok ha h

/-- A store, and then one that goes on from within it: together one store of the bytes of both. -/
theorem Memory.Stores.append {m m' m'' : Memory} {a : Word} {n c k : Nat} {byte : Nat → Byte}
    (h : Memory.Stores m m' a n byte) (l : Memory.Stores m' m'' (a + BitVec.ofNat 32 c) k fun i => byte (c + i))
    (hc : c ≤ n) (hn : n ≤ c + k) (small : c + k ≤ 8) : Memory.Stores m m'' a (c + k) byte := by
  intro d
  have off : (d - BitVec.ofNat 32 c).toNat = (d.toNat + (2 ^ 32 - c)) % 2 ^ 32 := by
    rw [BitVec.toNat_sub, BitVec.toNat_ofNat]; omega
  have later := l (d - BitVec.ofNat 32 c)
  rw [add_assoc, add_sub_cancel, off, h d] at later
  rw [later]
  by_cases inside : c ≤ d.toNat ∧ d.toNat < c + k
  · have pos : c + (d.toNat + (2 ^ 32 - c)) % 2 ^ 32 = d.toNat := by omega
    rw [if_pos (by omega), if_pos inside.2]
    exact congrArg byte pos
  · rw [if_neg (by omega)]
    exact if_congr (by omega) rfl rfl

/-- Two stores of the same bytes leave the same memory. -/
theorem Memory.Stores.byteAt_eq {m m' m'' : Memory} {a : Word} {n : Nat} {byte : Nat → Byte}
    (h : Memory.Stores m m' a n byte) (k : Memory.Stores m m'' a n byte) (b : Word) : m''.byteAt b = m'.byteAt b := by
  have same := (k (b - a)).trans (h (b - a)).symm
  rwa [add_sub_cancel] at same

/-- `swl` at `a + 3` completes what `swr` at `a` began: a store of the word at `a` (R263). -/
theorem Memory.stores_swl_swr (m : Memory) (a r : Word) :
    Memory.Stores m (swlMemory (swrMemory m a r) (a + 3) r) a 4 fun k => r.extractLsb' (8 * k) 8 := by
  have three := toNat_add_three_mod a
  have right : Memory.Stores m (swrMemory m a r) a _ _ := m.stores_swr a r
  have left : Memory.Stores (swrMemory m a r) (swlMemory (swrMemory m a r) (a + 3) r) (alignWord (a + 3)) _ _ :=
    (swrMemory m a r).stores_swl (a + 3) r
  have four : 3 - (a + 3).toNat % 4 + ((a + 3).toNat % 4 + 1) = 4 := by omega
  rw [alignWord_add_three] at left
  exact four ▸ right.append left (by omega) (by omega) (by omega)

/-- At an aligned address `swr` alone stores the word. -/
theorem Memory.stores_swr_aligned (m : Memory) {a : Word} (r : Word) (h : a.toNat % 4 = 0) :
    Memory.Stores m (swrMemory m a r) a 4 fun k => r.extractLsb' (8 * k) 8 := by
  have stores : Memory.Stores m (swrMemory m a r) a _ _ := m.stores_swr a r
  rwa [h] at stores

/-- The offset of the second of a pair, extended (R240). -/
theorem sextImm_add_three {offset : BitVec 16} (h : offset.toInt + 3 < 2 ^ 15) :
    sextImm (offset + 3) = sextImm offset + 3 := by
  have low : -2 ^ 15 ≤ offset.toInt := BitVec.le_toInt offset
  have sum : (offset + 3).toInt = offset.toInt + 3 :=
    (BitVec.toInt_add offset 3).trans (Int.bmod_eq_of_le (n := offset.toInt + 3) (by omega) (by omega))
  rw [sextImm, BitVec.signExtend, sum, BitVec.ofInt_add]
  rfl

/-- The second of a pair addresses 3 bytes past the first (R263). -/
theorem effAddr_add_three (s : State) (base : Reg) {offset : BitVec 16} (h : offset.toInt + 3 < 2 ^ 15) :
    s.effAddr base (offset + 3) = s.effAddr base offset + 3 := by
  rw [State.effAddr, sextImm_add_three h, ← add_assoc, State.effAddr]

/-- `lwr` and then `lwl` load the word at `a`, aligned or not (R263). -/
theorem lwr_lwl_complete {rt base : Reg} {offset : BitVec 16} {a : Word} (hb : rt ≠ base)
    (h3 : offset.toInt + 3 < 2 ^ 15) (ha : s.effAddr base offset = a) (h : s.mappedBytes (alignWord a) 4)
    (hnext : s.mappedBytes (alignWord (a + 3)) 4) :
    Completes (.lwr rt base offset) s (fun t => Completes (.lwl rt base (offset + 3)) t (fun u =>
      (∀ i < 4, (u.reg rt).extractLsb' (8 * i) 8 = s.mem.byteAt (a + BitVec.ofNat 32 i)) ∧
        (a.toNat % 4 = 0 → u.reg rt = t.reg rt) ∧ OnlyChanges [.x rt, .ea] s u)) := by
  refine ⟨_, exec_lwr ha h, ?_⟩
  obtain ⟨value, -, frame⟩ := loaded s rt (alignWord a) (lwrValue s.mem a (s.reg rt))
  generalize ht : (s.setEa (alignWord a)).setReg rt (lwrValue s.mem a (s.reg rt)) = t at *
  have mem : t.mem = s.mem := by rw [← ht]; rfl
  have mapped : t.mappedBytes (alignWord (a + 3)) 4 := by rw [← ht]; exact hnext
  have next : t.effAddr base (offset + 3) = a + 3 := by
    rw [effAddr_add_three t base h3, State.effAddr, frame.x base (by simpa using hb.symm), ← State.effAddr, ha]
  obtain ⟨word, -, frame'⟩ := loaded t rt (alignWord (a + 3)) (lwlValue t.mem (a + 3) (t.reg rt))
  have whole : lwlValue t.mem (a + 3) (t.reg rt) = s.mem.wordAt a := by rw [value, mem, lwlValue_lwrValue]
  refine ⟨_, exec_lwl next mapped, fun i hi => ?_, fun aligned => ?_, frame.trans frame'⟩
  · rw [word, whole, Memory.extractLsb'_wordAt _ _ hi]
  · rw [word, whole, value, lwrValue_aligned _ _ aligned]

/-- `swr` and then `swl` store the word at `a`, aligned or not (R263). -/
theorem swr_swl_complete (rt base : Reg) {offset : BitVec 16} {a : Word}
    (h3 : offset.toInt + 3 < 2 ^ 15) (ha : s.effAddr base offset = a) (h : s.mappedBytes (alignWord a) 4)
    (hnext : s.mappedBytes (alignWord (a + 3)) 4) :
    Completes (.swr rt base offset) s (fun t => Completes (.swl rt base (offset + 3)) t (fun u =>
      (∀ i < 4, u.mem.byteAt (a + BitVec.ofNat 32 i) = (s.reg rt).extractLsb' (8 * i) 8) ∧
        (a.toNat % 4 = 0 → ∀ b, u.mem.byteAt b = t.mem.byteAt b) ∧ OnlyChanges [.mem a 4, .ea] s u)) := by
  have pair := s.mem.stores_swl_swr a (s.reg rt)
  obtain ⟨bytes, -, frame⟩ := stored (alignWord (a + 3)) pair (by decide)
  have next : s.effAddr base (offset + 3) = a + 3 := by rw [effAddr_add_three s base h3, ha]
  exact ⟨_, exec_swr ha h, _, exec_swl (s := (s.setEa _).setMem _) next hnext, bytes,
    fun aligned => (s.mem.stores_swr_aligned (s.reg rt) aligned).byteAt_eq pair, frame⟩

/-- Settles O30: the load pair's two merges make the word, and the store pair's two stores are one store of the word. -/
theorem partialWordPairsCompose : Obligations.PartialWordPairsCompose := by
  intro s rt base offset h3 h hnext a
  exact ⟨fun hb => lwr_lwl_complete hb h3 rfl h hnext, swr_swl_complete rt base h3 rfl h hnext⟩

end Sys2Proof.Machine
end

section
/-! PROOFS. `ea` and the faults of the loads and stores (R241, R243, R376). -/

namespace Sys2Proof.Machine

variable {s : State}

/-- The load and store instructions of `accessOf` name `ea` in their `odeps` (R128). -/
theorem ea_mem_odepsOf {i : Instr} {a : Word} {n : Nat} (h : s.accessOf i = some (a, n)) : miscId 2 ∈ odepsOf i := by
  cases i <;> cases h
  all_goals simp [odepsOf]

/-- How an access of `n` bytes at `a` ends: `ea` is the address whether or not it faults, and where it does the record
is set and nothing else written (R241, R243, R376). -/
def WritesEa (a : Word) (n : Nat) (s : State) (r : Res) : Prop :=
  ∃ t, r = .next t ∧ t.live.ea = a ∧ (s.faultRecord = none → t.faultRecord = s.accessFault a n) ∧
    ∀ f, s.accessFault a n = some f → OnlyChanges [.ea, .faultRecord] s t

/-- An access ends so where what follows it writes neither `ea` nor the record. -/
theorem writesEa_accessing {a : Word} {n : Nat} {g : State → State} (ea : (g (s.setEa a)).live.ea = a)
    (record : (g (s.setEa a)).faultRecord = s.faultRecord) : WritesEa a n s (s.accessing a n fun u => .next (g u)) := by
  cases check : s.accessFault a n with
  | none => exact ⟨_, accessing_ok check, ea, fun hr => by rw [record, hr, check], by simp [check]⟩
  | some f =>
    have frame : OnlyChanges [.ea, .faultRecord] s ((s.setEa a).recordFault f) :=
      ((onlyChanges_setEa s a).mono (by simp)).trans ((onlyChanges_recordFault _ f).mono (by simp))
    exact ⟨_, accessing_fault check, rfl, fun hr => by simp [State.recordFault, hr, check], fun _ _ => frame⟩

theorem writesEa_loadReg {n : Nat} {value : Memory → Word → Word} {rt base : Reg} {offset : BitVec 16} :
    WritesEa (s.effAddr base offset) n s (loadReg n value rt base offset s) := by
  unfold loadReg
  exact writesEa_accessing rfl rfl

theorem writesEa_loadPartial {merge : Word → Word → Nat → Word} {rt base : Reg} {offset : BitVec 16} :
    WritesEa (alignWord (s.effAddr base offset)) 4 s (loadPartial merge rt base offset s) := by
  unfold loadPartial
  exact writesEa_accessing rfl rfl

theorem writesEa_storeMem {n : Nat} {store : Memory → Word → Memory} {base : Reg} {offset : BitVec 16} :
    WritesEa (s.effAddr base offset) n s (storeMem n store base offset s) := by
  unfold storeMem
  exact writesEa_accessing rfl rfl

theorem writesEa_storePartial {merge : Word → Word → Nat → Word} {rt base : Reg} {offset : BitVec 16} :
    WritesEa (alignWord (s.effAddr base offset)) 4 s (storePartial merge rt base offset s) := by
  unfold storePartial
  exact writesEa_accessing rfl rfl

/-- Every load and store ends so, at the address it passes to memory. -/
theorem exec_writesEa {i : Instr} {a : Word} {n : Nat} (h : s.accessOf i = some (a, n)) : WritesEa a n s (exec i s) := by
  cases i <;> cases h
  case lw | ll => exact writesEa_loadReg
  case lb | lbu | lh | lhu =>
    dsimp only [exec, execLb, execLbu, execLh, execLhu]
    exact writesEa_loadReg
  case lwl | lwr => exact writesEa_loadPartial
  case sb | sh | sw | swc1 | sdc1 =>
    dsimp only [exec, execSb, execSh, execSw, execSwc1, execSdc1]
    exact writesEa_storeMem
  case swl | swr => exact writesEa_storePartial
  case sc | lwc1 | ldc1 =>
    dsimp only [exec, execSc, execLwc1, execLdc1]
    exact writesEa_accessing rfl rfl

/-- Settles O29, by how the access of each load and store ends. -/
theorem accessesWriteEa : Obligations.AccessesWriteEa := by
  intro s i a n h
  obtain ⟨t, completes, ea, record, frame⟩ := exec_writesEa h
  exact ⟨ea_mem_odepsOf h, ⟨t, completes, ea⟩,
    fun f hr check => ⟨t, completes, (record hr).trans check, ea, frame f check⟩,
    fun hr check => ⟨t, completes, (record hr).trans check⟩⟩

end Sys2Proof.Machine
end

section
/-! PROOFS. The control moves, the bit operations on float views, and the compares (R285 to R288, R295 to R297, R303 to R305,
R316 to R318). -/

namespace Sys2Proof.Machine

/-! ## Control moves -/

/-- The frame of fcsr written. -/
theorem onlyChanges_setFcsr (s : State) (v : Word) : OnlyChanges [.fcsr] s (s.setFcsr v) := by
  constructor <;> simp [State.reg, State.fw]

/-- Outside its gate a control move does nothing under CP1CTL_UNGATED = noop (R287). -/
theorem ungated_noop {s : State} (mnemonic : String) (h : s.params.cp1ctlUngated = .noop) :
    ungated mnemonic s = .next s := by
  simp [ungated, h]

/-- Under CP1CTL_UNGATED = fault it faults (R287). -/
theorem ungated_fault {s : State} (mnemonic : String) (h : s.params.cp1ctlUngated = .fault) :
    ungated mnemonic s = raise (.cp1ControlUngated s.live.pc mnemonic) s := by
  simp [ungated, h]

theorem exec_cfc1_gated (rt : Reg) (s : State) : exec (.cfc1 rt 31) s = .next (s.setReg rt s.live.fcsr) := rfl

theorem exec_ctc1_gated (rt : Reg) (s : State) : exec (.ctc1 rt 0) s = .next (s.setFcsr (s.reg rt)) := rfl

theorem exec_cfc1_ungated {fs : Reg} (rt : Reg) (s : State) (h : fs ≠ 31) :
    exec (.cfc1 rt fs) s = ungated "cfc1" s := if_neg h

theorem exec_ctc1_ungated {fs : Reg} (rt : Reg) (s : State) (h : fs ≠ 0) :
    exec (.ctc1 rt fs) s = ungated "ctc1" s := if_neg h

/-- An instruction that is `ungated` completes and changes nothing, or completes with the fault recorded. -/
theorem ungated_completes {i : Instr} {s : State} {mnemonic : String} (h : exec i s = ungated mnemonic s) :
    (s.params.cp1ctlUngated = .noop → Completes i s (OnlyChanges [] s)) ∧
      (s.params.cp1ctlUngated = .fault → s.faultRecord = none → Completes i s fun t =>
        t.faultRecord = some (.cp1ControlUngated s.live.pc mnemonic) ∧ OnlyChanges [.faultRecord] s t) := by
  refine ⟨fun noop => ⟨s, h.trans (ungated_noop _ noop), .refl s⟩, fun fault hr => ?_⟩
  rw [Completes, h, ungated_fault _ fault]
  exact raise_completes _ hr

/-- Settles O31: inside the gate each is one register write, outside it `ungated`. -/
theorem controlMoves : Obligations.ControlMoves := by
  intro s rt fs
  have cfc1 (h : fs ≠ 31) := ungated_completes (exec_cfc1_ungated rt s h)
  have ctc1 (h : fs ≠ 0) := ungated_completes (exec_ctc1_ungated rt s h)
  exact ⟨⟨_, rfl, reg_setReg_self .., onlyChanges_setReg ..⟩, ⟨_, rfl, fw_setFw_self .., onlyChanges_setFw ..⟩,
    ⟨_, exec_cfc1_gated rt s, reg_setReg_self .., onlyChanges_setReg ..⟩,
    ⟨_, exec_ctc1_gated rt s, rfl, onlyChanges_setFcsr ..⟩,
    fun noop => ⟨fun h => (cfc1 h).1 noop, fun h => (ctc1 h).1 noop⟩,
    fun fault hr => ⟨fun h => (cfc1 h).2 fault hr, fun h => (ctc1 h).2 fault hr⟩⟩

/-! ## Bit operations on the views -/

/-- Every bit of `v` below the sign bit `n` is one of `u`'s, and the sign bit is `sign`. -/
def SignReplaced {w : Nat} (n : Nat) (sign : Bool) (u v : BitVec w) : Prop :=
  (∀ k < n, v.getLsbD k = u.getLsbD k) ∧ v.getLsbD n = sign

/-- An `and` with the mask of the other bits clears the sign bit. -/
theorem signReplaced_and {n : Nat} {mask : BitVec (n + 1)} (u : BitVec (n + 1)) (h : mask = BitVec.intMax (n + 1)) :
    SignReplaced n false u (u &&& mask) := by
  simp only [SignReplaced, h, BitVec.getLsbD_and, BitVec.getLsbD_intMax]
  exact ⟨fun k hk => by simp [hk], by simp⟩

/-- An exclusive or with the sign bit alone flips it. -/
theorem signReplaced_xor {n : Nat} {mask : BitVec (n + 1)} (u : BitVec (n + 1)) (h : mask = BitVec.intMin (n + 1)) :
    SignReplaced n (!u.getLsbD n) u (u ^^^ mask) := by
  simp only [SignReplaced, h, BitVec.getLsbD_xor, BitVec.getLsbD_intMin]
  exact ⟨fun k hk => by simp [hk.ne], by simp⟩

theorem signReplaced_self {n : Nat} (u : BitVec (n + 1)) : SignReplaced n (u.getLsbD n) u u := ⟨fun _ _ => rfl, rfl⟩

/-- A word written whose sign bit alone is not the source's. -/
theorem singleSign_completes {i : Instr} {s : State} {fd fs : Reg} {v : Word} {sign : Bool}
    (h : exec i s = .next (s.setFw fd v)) (hv : SignReplaced 31 sign (s.fw fs) v) :
    Completes i s fun t => (∀ k < 31, (t.fw fd).getLsbD k = (s.fw fs).getLsbD k) ∧ (t.fw fd).getLsbD 31 = sign ∧
      OnlyChanges [.fw fd] s t := by
  obtain ⟨below, top⟩ := hv
  refine ⟨_, h, ?_, ?_, onlyChanges_setFw s fd v⟩
  · rwa [fw_setFw_self]
  · rwa [fw_setFw_self]

/-- A pair written whose sign bit alone is not the source's. -/
theorem doubleSign_completes {i : Instr} {s : State} {fd fs : Reg} {v : DWord} {sign : Bool}
    (h : exec i s = .next (s.setFl fd v)) (hv : SignReplaced 63 sign (s.fl fs) v) :
    Completes i s fun t => (∀ k < 63, (t.fl fd).getLsbD k = (s.fl fs).getLsbD k) ∧ (t.fl fd).getLsbD 63 = sign ∧
      OnlyChanges (pairParts fd) s t := by
  obtain ⟨below, top⟩ := hv
  refine ⟨_, h, ?_, ?_, onlyChanges_setFl s fd v⟩
  · rwa [fl_setFl_self]
  · rwa [fl_setFl_self]

/-- Settles O32: `abs` is an `and` with the bits below the sign, `neg` an exclusive or with the sign. -/
theorem signBitOperations : Obligations.SignBitOperations := by
  intro s fd fs
  exact ⟨singleSign_completes rfl (signReplaced_and _ rfl), singleSign_completes rfl (signReplaced_self _),
    singleSign_completes rfl (signReplaced_xor _ rfl), doubleSign_completes rfl (signReplaced_and _ rfl),
    doubleSign_completes rfl (signReplaced_self _), doubleSign_completes rfl (signReplaced_xor _ rfl)⟩

/-! ## Compares -/

/-- A compare writes its condition bit by the order of its operands (R316, R317). -/
theorem exec_compare {i : Instr} {f : FloatFmt} {cond : Nat} {cc : BitVec 3} {fs ft : Reg} (s : State)
    (h : compareOf i = some (f, cond, cc, fs, ft)) :
    exec i s = .next (s.setFcc cc
      (condHolds (BitVec.ofNat 4 cond) (f.compare (s.viewOf f fs) (s.viewOf f ft)))) := by
  cases i <;> cases h
  all_goals rfl

/-- The relations a COND field asks for, bit by bit (R316). -/
theorem condHolds_iff {cond : Nat} {o : FloatOrder} :
    condHolds (BitVec.ofNat 4 cond) o = true ↔
      (cond.testBit 2 = true ∧ o = .less) ∨ (cond.testBit 1 = true ∧ o = .equal) ∨
        (cond.testBit 0 = true ∧ o = .unordered) := by
  simp only [condHolds, BitVec.getLsbD_ofNat]
  cases o <;> simp

/-- The truth table of R318: the relation asked for is the one that holds. -/
theorem condHolds_compare {f : FloatFmt} {cond a b : Nat} :
    condHolds (BitVec.ofNat 4 cond) (f.compare a b) = true ↔ f.conditionHolds cond a b := by
  obtain ⟨less, equal, unordered⟩ := FloatVal.order_spec (f.unpack a) (f.unpack b)
  rw [condHolds_iff, FloatFmt.compare, less, equal, unordered, FloatFmt.unpack_eq_nan, FloatFmt.unpack_eq_nan,
    FloatFmt.conditionHolds]

/-- Settles O39: a compare writes one bit of fcsr, by the order of its operands. -/
theorem compareResults : Obligations.CompareResults := by
  intro s i f cond cc fs ft h
  refine ⟨_, exec_compare s h, ?bit, fun k _ hk => getLsbD_fcsrWith_ne s.live.fcsr cc _ hk, onlyChanges_setFcsr s _⟩
  rw [← condHolds_compare]
  exact Bool.eq_iff_iff.1 (fccOf_fcsrWith s.live.fcsr cc _)

end Sys2Proof.Machine
end

section
/-! PROOFS. The numbers that floating-point arithmetic writes (R281, R289 to R294, R298 to R302). -/

namespace Sys2Proof.Machine

variable {f : FloatFmt} {s : State}

/-! ## Encodings -/

/-- The encodings of a format: sign, exponent field, fraction. -/
theorem FloatFmt.signBit_eq (f : FloatFmt) : f.signBit = 2 ^ f.fracBits * 2 ^ f.expBits := by
  rw [FloatFmt.signBit, Nat.add_comm, Nat.pow_add]

theorem FloatFmt.signBit_pos (f : FloatFmt) : 0 < f.signBit := Nat.two_pow_pos _

/-- Bits above the sign bit are not read. -/
theorem FloatFmt.unpack_mod (f : FloatFmt) (bits : ℕ) : f.unpack (bits % (2 * f.signBit)) = f.unpack bits := by
  have whole : 2 * f.signBit = 2 ^ f.fracBits * (2 ^ f.expBits * 2) := by rw [f.signBit_eq]; ring
  have frac : bits % (2 * f.signBit) % 2 ^ f.fracBits = bits % 2 ^ f.fracBits :=
    Nat.mod_mod_of_dvd _ ⟨_, whole⟩
  have ex : bits % (2 * f.signBit) / 2 ^ f.fracBits % 2 ^ f.expBits = bits / 2 ^ f.fracBits % 2 ^ f.expBits := by
    rw [whole, Nat.mod_mul_right_div_self, Nat.mod_mod_of_dvd _ ⟨2, rfl⟩]
  have sign : bits % (2 * f.signBit) / f.signBit % 2 = bits / f.signBit % 2 := by
    rw [Nat.mod_mul_left_div_self, Nat.mod_mod]
  simp only [FloatFmt.unpack, frac, ex, sign]

theorem FloatFmt.value_mod (f : FloatFmt) (bits : ℕ) : f.value (bits % (2 * f.signBit)) = f.value bits :=
  congrArg FloatVal.rat? (f.unpack_mod bits)

theorem FloatFmt.negative_mod (f : FloatFmt) (bits : ℕ) : f.negative (bits % (2 * f.signBit)) ↔ f.negative bits := by
  rw [FloatFmt.negative, FloatFmt.negative, Nat.mod_mul_left_div_self, Nat.mod_mod]

/-- A signed magnitude has no bit above the sign bit. -/
theorem FloatFmt.signed_mod (f : FloatFmt) (neg : Bool) {m : ℕ} (h : m < f.signBit) :
    f.signed neg m % (2 * f.signBit) = f.signed neg m := by
  refine Nat.mod_eq_of_lt ?_
  cases neg <;> simp only [FloatFmt.signed, Bool.false_eq_true, if_false, if_true] <;> omega

/-- A number rounded is rounded whatever stands above the sign bit. -/
theorem FloatFmt.Rounded.mod {x : ℚ} {bits : ℕ} (h : f.Rounded x bits) : f.Rounded x (bits % (2 * f.signBit)) := by
  obtain ⟨nearest, overflow, sign⟩ := h
  refine ⟨fun hx => ?_, fun hx => ?_, (f.negative_mod bits).trans sign⟩
  · obtain ⟨v, hv, near⟩ := nearest hx
    refine ⟨v, (f.value_mod bits).trans hv, ?_⟩
    rwa [Nat.mod_mod_of_dvd _ (Nat.dvd_mul_right 2 _)]
  · rw [overflow hx]
    exact f.signed_mod _ f.infMagnitude_lt

/-- The sign of an encoding. -/
def FloatFmt.sign (f : FloatFmt) (bits : ℕ) : Bool := bits / f.signBit % 2 == 1

/-- A finite value has the sign of its encoding. -/
theorem FloatFmt.sign_of_unpack {bits : ℕ} {neg : Bool} {m : ℕ} {e : ℤ} (h : f.unpack bits = .fin neg m e) :
    f.sign bits = neg := by
  simp only [FloatFmt.unpack] at h
  split at h
  · split at h <;> simp at h
  · split at h <;> exact (FloatVal.fin.inj h).1

/-- An encoding is its sign and its magnitude. -/
theorem FloatFmt.eq_signed {bits : ℕ} (h : bits < 2 * f.signBit) :
    bits = f.signed (f.sign bits) (bits % f.signBit) := by
  have hd : bits / f.signBit < 2 := Nat.div_lt_of_lt_mul (by omega)
  have hm := Nat.div_add_mod bits f.signBit
  unfold FloatFmt.sign
  interval_cases bits / f.signBit
  · simpa [FloatFmt.signed] using hm.symm
  · simpa [FloatFmt.signed] using hm.symm

/-- The encoding of a zero is its sign alone. -/
theorem FloatFmt.eq_signed_zero {bits : ℕ} {neg : Bool} {e : ℤ} (h : bits < 2 * f.signBit)
    (hz : f.unpack bits = .fin neg 0 e) : bits = f.signed neg 0 := by
  have magnitude : bits % f.signBit = 0 := by
    have hp := Nat.two_pow_pos f.fracBits
    rw [f.signBit_eq, Nat.mod_mul]
    simp only [FloatFmt.unpack] at hz
    split at hz
    · split at hz <;> simp at hz
    · split at hz
      · rename_i ex
        rw [ex, (FloatVal.fin.inj hz).2.1, Nat.mul_zero]
      · have := (FloatVal.fin.inj hz).2.1
        omega
  rw [← FloatFmt.sign_of_unpack hz, ← magnitude]
  exact FloatFmt.eq_signed h

/-- A zero's encoding denotes a zero of its sign. -/
theorem FloatFmt.unpack_signed_zero (ok : f.Ok) (neg : Bool) : f.unpack (f.signed neg 0) = .fin neg 0 f.minQuantum := by
  have := ok.maxExp_ge
  rw [f.unpack_signed neg f.signBit_pos, if_neg (by rw [Nat.zero_div]; omega), Nat.zero_div, if_pos rfl, Nat.zero_mod]

/-- A rational value is a finite one of the encoding's sign, 0 where its significand is. -/
theorem FloatFmt.unpack_of_rat? {bits : ℕ} {x : ℚ} (h : (f.unpack bits).rat? = some x) :
    ∃ m e, f.unpack bits = .fin (f.sign bits) m e ∧ (x = 0 ↔ m = 0) := by
  obtain ⟨neg, m, e, hu, -⟩ := FloatVal.fin_of_rat? h
  obtain rfl := FloatFmt.sign_of_unpack hu
  refine ⟨m, e, hu, ?_⟩
  rw [← FloatVal.rat?_fin_eq_zero, ← hu, h, Option.some_inj]

/-! ## What an instruction writes under the default FP_ARITH -/

/-- Where the result `r` is a number, the instruction writes its bits up to the sign bit to a view `out`, and nothing but
`parts` changes. -/
def WritesNumber (f : FloatFmt) (i : Instr) (s : State) (out : State → ℕ) (parts : List Part) (r : Option ℕ) : Prop :=
  ∀ bits, r = some bits → Completes i s fun t => out t = bits % (2 * f.signBit) ∧ OnlyChanges parts s t

/-- A `writeSingle` writes its number. -/
theorem writesNumber_single {i : Instr} {c : Config.FpCall} {fd : Reg} {r : Option ℕ} (h : s.params.fpArith = [])
    (hex : exec i s = writeSingle c fd r s) : WritesNumber .single i s (fun t => (t.fw fd).toNat) [.fw fd] r := by
  rintro bits rfl
  refine ⟨_, hex.trans (writeSingle_some c fd bits h), ?_, onlyChanges_setFw ..⟩
  simp only [fw_setFw_self]
  exact BitVec.toNat_ofNat bits 32

/-- A `writeDouble` writes its number. -/
theorem writesNumber_double {i : Instr} {c : Config.FpCall} {fd : Reg} {r : Option ℕ} (h : s.params.fpArith = [])
    (hex : exec i s = writeDouble c fd r s) :
    WritesNumber .double i s (fun t => (t.fl fd).toNat) (pairParts fd) r := by
  rintro bits rfl
  refine ⟨_, hex.trans (writeDouble_some c fd bits h), ?_, onlyChanges_setFl ..⟩
  simp only [fl_setFl_self]
  exact BitVec.toNat_ofNat bits 64

section
variable {i : Instr} {out : State → ℕ} {parts : List Part} {r : Option ℕ}

/-- What holds of the bits up to the sign bit holds of the view. -/
theorem WritesNumber.completes {P : ℕ → Prop} (w : WritesNumber f i s out parts r)
    (h : ∃ bits, r = some bits ∧ P (bits % (2 * f.signBit))) :
    Completes i s fun t => P (out t) ∧ OnlyChanges parts s t := by
  obtain ⟨bits, hr, hP⟩ := h
  obtain ⟨t, ht, hout, frame⟩ := w bits hr
  exact ⟨t, ht, hout ▸ hP, frame⟩

/-- A rounded result is a rounded view. -/
theorem WritesNumber.rounded {x : ℚ} (w : WritesNumber f i s out parts r)
    (h : ∃ bits, r = some bits ∧ f.Rounded x bits) :
    Completes i s fun t => f.Rounded x (out t) ∧ OnlyChanges parts s t := by
  obtain ⟨bits, hr, hx⟩ := h
  exact w.completes ⟨bits, hr, hx.mod⟩

/-- A signed magnitude is written as it is. -/
theorem WritesNumber.signed {neg : Bool} {m : ℕ} (w : WritesNumber f i s out parts r) (hm : m < f.signBit)
    (hr : r = some (f.signed neg m)) : Completes i s fun t => out t = f.signed neg m ∧ OnlyChanges parts s t :=
  w.completes (P := (· = f.signed neg m)) ⟨_, hr, f.signed_mod neg hm⟩

/-- An infinity is written as it is. -/
theorem WritesNumber.infinity {neg : Bool} (w : WritesNumber f i s out parts r) (hr : r = some (f.infinity neg)) :
    Completes i s fun t => out t = f.infinity neg ∧ OnlyChanges parts s t :=
  w.signed f.infMagnitude_lt hr

/-- A zero is written as it is. -/
theorem WritesNumber.zero {neg : Bool} (w : WritesNumber f i s out parts r) (hr : r = some (f.signed neg 0)) :
    Completes i s fun t => out t = f.signed neg 0 ∧ OnlyChanges parts s t :=
  w.signed f.signBit_pos hr

end

/-! ## Sums, differences, products, quotients -/

/-- The difference of two numbers that is not 0, rounded once. -/
theorem FloatFmt.sub_rounded (ok : f.Ok) {a b : ℕ} {x y : ℚ} (ha : f.value a = some x) (hb : f.value b = some y)
    (h0 : x - y ≠ 0) : ∃ bits, f.sub a b = some bits ∧ f.Rounded (x - y) bits := by
  rw [sub_eq_add_neg] at h0 ⊢
  exact FloatFmt.addVal_rounded ok ha (FloatVal.rat?_neg hb) h0

/-- Settles O33: the exact result is rounded once, and written. -/
theorem arithmeticRoundsToNearest : Obligations.ArithmeticRoundsToNearest := by
  intro s fd fs ft a b h
  refine ⟨fun ha hb => ⟨fun h0 => ?_, fun h0 => ?_, fun h0 => ?_, fun h0 => ?_⟩,
    fun ha hb => ⟨fun h0 => ?_, fun h0 => ?_, fun h0 => ?_, fun h0 => ?_⟩⟩
  · exact (writesNumber_single h rfl).rounded (FloatFmt.addVal_rounded FloatFmt.single_ok ha hb h0)
  · exact (writesNumber_single h rfl).rounded (FloatFmt.sub_rounded FloatFmt.single_ok ha hb h0)
  · exact (writesNumber_single h rfl).rounded (FloatFmt.mulVal_rounded FloatFmt.single_ok ha hb h0)
  · exact (writesNumber_single h rfl).rounded (FloatFmt.divVal_rounded FloatFmt.single_ok ha hb h0)
  · exact (writesNumber_double h rfl).rounded (FloatFmt.addVal_rounded FloatFmt.double_ok ha hb h0)
  · exact (writesNumber_double h rfl).rounded (FloatFmt.sub_rounded FloatFmt.double_ok ha hb h0)
  · exact (writesNumber_double h rfl).rounded (FloatFmt.mulVal_rounded FloatFmt.double_ok ha hb h0)
  · exact (writesNumber_double h rfl).rounded (FloatFmt.divVal_rounded FloatFmt.double_ok ha hb h0)

/-! ## Square roots -/

/-- An encoding is the value of the format nearest to the root of `x`: the root lies on its side of the midpoint to every
other one (R281). -/
def FloatFmt.NearestRoot (f : FloatFmt) (x : ℚ) (bits : ℕ) : Prop :=
  ∃ r, f.value bits = some r ∧ 0 < r ∧ ∀ other w, f.value other = some w → 0 ≤ w →
    (r < w → x ≤ ((r + w) / 2) ^ 2) ∧ (w < r → ((r + w) / 2) ^ 2 ≤ x)

theorem FloatFmt.NearestRoot.mod {x : ℚ} {bits : ℕ} (h : f.NearestRoot x bits) :
    f.NearestRoot x (bits % (2 * f.signBit)) := by
  rwa [FloatFmt.NearestRoot, f.value_mod]

/-- The root of a positive number. -/
theorem FloatFmt.sqrt_nearest (ok : f.Ok) (hwide : f.fracBits + 2 ≤ 2 ^ (f.expBits - 1)) {a : ℕ} {x : ℚ}
    (ha : f.value a = some x) (hx : 0 < x) : ∃ bits, f.sqrt a = some bits ∧ f.NearestRoot x bits := by
  obtain ⟨neg, m, e, hu, rfl⟩ := FloatVal.fin_of_rat? ha
  have hm : m ≠ 0 := by rintro rfl; simp at hx
  have plus : neg = false := by
    cases neg with
    | false => rfl
    | true =>
      have magnitude : (0 : ℚ) ≤ m * 2 ^ e := by positivity
      simp only [signOf, if_true] at hx
      linarith
  subst plus
  obtain ⟨bound, low⟩ := FloatFmt.unpack_bounds hu
  refine ⟨f.sqrtPos m e, by simp [FloatFmt.sqrt, FloatFmt.sqrtVal, hu, hm], ?_⟩
  have one : signOf false * m * 2 ^ e = (m : ℚ) * 2 ^ e := by simp [signOf]
  rw [one]
  exact FloatFmt.sqrtPos_nearest ok hwide (Nat.pos_of_ne_zero hm) bound low (FloatFmt.unpack_exp_le ok hu)

/-- The root of a zero is that zero (R294). -/
theorem FloatFmt.sqrt_zero {a : ℕ} (h : a < 2 * f.signBit) (ha : f.value a = some 0) : f.sqrt a = some a := by
  obtain ⟨m, e, hu, hm⟩ := FloatFmt.unpack_of_rat? ha
  obtain rfl := hm.1 rfl
  rw [FloatFmt.sqrt, hu, FloatFmt.sqrtVal, if_pos rfl, ← FloatFmt.eq_signed_zero h hu]

/-- A root written: the nearest one of a positive number, and of a zero the zero itself. -/
theorem WritesNumber.root (ok : f.Ok) (hwide : f.fracBits + 2 ≤ 2 ^ (f.expBits - 1)) {i : Instr} {out : State → ℕ}
    {parts : List Part} {a : ℕ} {x : ℚ} (w : WritesNumber f i s out parts (f.sqrt a)) (h : a < 2 * f.signBit)
    (ha : f.value a = some x) :
    (0 < x → Completes i s fun t => f.NearestRoot x (out t) ∧ OnlyChanges parts s t) ∧
      (x = 0 → Completes i s fun t => out t = a ∧ OnlyChanges parts s t) := by
  refine ⟨fun hx => ?_, ?_⟩
  · obtain ⟨bits, hr, near⟩ := FloatFmt.sqrt_nearest ok hwide ha hx
    exact w.completes ⟨bits, hr, near.mod⟩
  · rintro rfl
    exact w.completes (P := (· = a)) ⟨a, FloatFmt.sqrt_zero h ha, Nat.mod_eq_of_lt h⟩

/-- Settles O34, by the root that each instruction writes. -/
theorem squareRootRoundsToNearest : Obligations.SquareRootRoundsToNearest := by
  intro s fd fs x h nearestRoot
  refine ⟨fun ha => ?_, fun ha => ?_⟩
  · have w : WritesNumber .single (.sqrtS fd fs) s _ _ _ := writesNumber_single h rfl
    obtain ⟨positive, zero⟩ := w.root FloatFmt.single_ok (by decide) (s.fw fs).isLt ha
    refine ⟨positive, fun hx => ?_⟩
    obtain ⟨t, ht, same, frame⟩ := zero hx
    exact ⟨t, ht, BitVec.eq_of_toNat_eq same, frame⟩
  · have w : WritesNumber .double (.sqrtD fd fs) s _ _ _ := writesNumber_double h rfl
    obtain ⟨positive, zero⟩ := w.root FloatFmt.double_ok (by decide) (s.fl fs).isLt ha
    refine ⟨positive, fun hx => ?_⟩
    obtain ⟨t, ht, same, frame⟩ := zero hx
    exact ⟨t, ht, BitVec.eq_of_toNat_eq same, frame⟩

/-! ## Infinities and zeros -/

@[simp] theorem pow2Num_zero (e : ℤ) : pow2Num 0 e = 0 := by simp [pow2Num]

@[simp] theorem alignTo_zero (neg : Bool) (e e0 : ℤ) : alignTo neg 0 e e0 = 0 := by simp [alignTo]

/-- A zero rounded keeps its sign. -/
@[simp] theorem FloatFmt.roundFrac_zero (f : FloatFmt) (neg : Bool) (d : ℕ) : f.roundFrac neg 0 d = f.signed neg 0 :=
  if_pos rfl

@[simp] theorem FloatFmt.round_zero (f : FloatFmt) (neg : Bool) (e : ℤ) : f.round neg 0 e = f.signed neg 0 := by
  simp [FloatFmt.round]

/-- The sum of two zeros is negative where both are. -/
theorem FloatFmt.addVal_zeros (f : FloatFmt) (n k : Bool) (e e' : ℤ) :
    f.addVal (.fin n 0 e) (.fin k 0 e') = some (f.signed (n && k) 0) := by
  simp [FloatFmt.addVal]

/-- Two numbers that cancel sum to +0. -/
theorem FloatFmt.addVal_cancel {u v : FloatVal} {x : ℚ} (hu : u.rat? = some x) (hv : v.rat? = some (-x)) (h0 : x ≠ 0) :
    f.addVal u v = some (f.signed false 0) := by
  obtain ⟨na, ma, ea, rfl, rfl⟩ := FloatVal.fin_of_rat? hu
  obtain ⟨nb, mb, eb, rfl, hb⟩ := FloatVal.fin_of_rat? hv
  have scale : (2 : ℚ) ^ min ea eb ≠ 0 := by positivity
  have cancel : alignTo na ma ea (min ea eb) + alignTo nb mb eb (min ea eb) = 0 := by
    rw [← Int.cast_eq_zero (α := ℚ), ← mul_eq_zero_iff_right scale]
    push_cast
    rw [add_mul, alignTo_value _ _ (min_le_left _ _), alignTo_value _ _ (min_le_right _ _), ← hb, add_neg_cancel]
  have opposed : (na && nb) = false := by
    by_contra both
    obtain ⟨rfl, rfl⟩ : na = true ∧ nb = true := by simpa using both
    have pa : (0 : ℚ) ≤ ma * 2 ^ ea := by positivity
    have pb : (0 : ℚ) ≤ mb * 2 ^ eb := by positivity
    simp only [signOf, if_true] at h0 hb
    exact h0 (by linarith)
  simp only [FloatFmt.addVal]
  rw [if_pos cancel, opposed]

section
variable {a b : ℕ} {n k : Bool} {x : ℚ}

/-- An infinity and a number. -/
theorem FloatFmt.infinity_number (ha : f.unpack a = .inf n) (hb : (f.unpack b).rat? = some x) :
    f.add a b = some (f.infinity n) ∧ f.sub a b = some (f.infinity n) ∧
      f.div a b = some (f.infinity (n != f.sign b)) ∧ (x ≠ 0 → f.mul a b = some (f.infinity (n != f.sign b))) := by
  obtain ⟨m, e, hv, hm⟩ := FloatFmt.unpack_of_rat? hb
  simp only [FloatFmt.add, FloatFmt.sub, FloatFmt.div, FloatFmt.mul, ha, hv]
  exact ⟨rfl, rfl, rfl, fun h0 => if_neg (mt hm.2 h0)⟩

/-- A number and an infinity. -/
theorem FloatFmt.number_infinity (ha : (f.unpack a).rat? = some x) (hb : f.unpack b = .inf n) :
    f.add a b = some (f.infinity n) ∧ f.sub a b = some (f.infinity (!n)) ∧
      f.div a b = some (f.signed (f.sign a != n) 0) ∧ (x ≠ 0 → f.mul a b = some (f.infinity (f.sign a != n))) := by
  obtain ⟨m, e, hu, hm⟩ := FloatFmt.unpack_of_rat? ha
  simp only [FloatFmt.add, FloatFmt.sub, FloatFmt.div, FloatFmt.mul, hu, hb]
  exact ⟨rfl, rfl, rfl, fun h0 => if_neg (mt hm.2 h0)⟩

/-- Two infinities. -/
theorem FloatFmt.infinity_infinity (ha : f.unpack a = .inf n) (hb : f.unpack b = .inf k) :
    (n = k → f.add a b = some (f.infinity n)) ∧ (n ≠ k → f.sub a b = some (f.infinity n)) ∧
      f.mul a b = some (f.infinity (n != k)) := by
  simp only [FloatFmt.add, FloatFmt.sub, FloatFmt.mul, ha, hb]
  exact ⟨fun same => if_pos same, fun other => if_pos (Bool.eq_not.2 other), rfl⟩

/-- A nonzero number and a zero. -/
theorem FloatFmt.number_zero (ha : (f.unpack a).rat? = some x) (h0 : x ≠ 0) (hb : (f.unpack b).rat? = some 0) :
    f.div a b = some (f.infinity (f.sign a != f.sign b)) ∧ f.mul a b = some (f.signed (f.sign a != f.sign b) 0) := by
  obtain ⟨m, e, hu, hm⟩ := FloatFmt.unpack_of_rat? ha
  obtain ⟨m', e', hv, hm'⟩ := FloatFmt.unpack_of_rat? hb
  obtain rfl := hm'.1 rfl
  have nonzero : m ≠ 0 := mt hm.2 h0
  simp [FloatFmt.div, FloatFmt.mul, FloatFmt.divVal, FloatFmt.mulVal, hu, hv, nonzero, FloatFmt.infinity]

/-- A zero and a nonzero number. -/
theorem FloatFmt.zero_number (ha : (f.unpack a).rat? = some 0) (hb : (f.unpack b).rat? = some x) (h0 : x ≠ 0) :
    f.div a b = some (f.signed (f.sign a != f.sign b) 0) ∧ f.mul a b = some (f.signed (f.sign a != f.sign b) 0) := by
  obtain ⟨m, e, hu, hm⟩ := FloatFmt.unpack_of_rat? ha
  obtain ⟨m', e', hv, hm'⟩ := FloatFmt.unpack_of_rat? hb
  obtain rfl := hm.1 rfl
  have nonzero : m' ≠ 0 := mt hm'.2 h0
  simp [FloatFmt.div, FloatFmt.mul, FloatFmt.divVal, FloatFmt.mulVal, hu, hv, nonzero]

/-- Two zeros. -/
theorem FloatFmt.zero_zero (ok : f.Ok) (ha : a = f.signed n 0) (hb : b = f.signed k 0) :
    f.add a b = some (f.signed (n && k) 0) ∧ f.sub a b = some (f.signed (n && !k) 0) ∧
      f.mul a b = some (f.signed (n != k) 0) := by
  subst ha hb
  simp only [FloatFmt.add, FloatFmt.sub, FloatFmt.mul, FloatFmt.unpack_signed_zero ok]
  exact ⟨f.addVal_zeros .., f.addVal_zeros .., by simp [FloatFmt.mulVal]⟩

/-- Two numbers that cancel, in a sum and in a difference. -/
theorem FloatFmt.number_cancels (ha : (f.unpack a).rat? = some x) (h0 : x ≠ 0) :
    ((f.unpack b).rat? = some (-x) → f.add a b = some (f.signed false 0)) ∧
      ((f.unpack b).rat? = some x → f.sub a b = some (f.signed false 0)) :=
  ⟨fun hb => FloatFmt.addVal_cancel ha hb h0, fun hb => FloatFmt.addVal_cancel ha (FloatVal.rat?_neg hb) h0⟩

theorem FloatFmt.sqrt_infinity (ha : f.unpack a = .inf false) : f.sqrt a = some (f.infinity false) := by
  rw [FloatFmt.sqrt, ha]
  rfl

end

/-- Settles O36: what each operation gives on the values of its operands, written as it is. -/
theorem infinitiesAndZeros : Obligations.InfinitiesAndZeros := by
  intro s fd fs ft x n k h forms
  have all (f : FloatFmt) (ok : f.Ok) (bits : Reg → ℕ) {plus minus times divided root : Instr} {out : State → ℕ}
      {parts : List Part} (wPlus : WritesNumber f plus s out parts (f.add (bits fs) (bits ft)))
      (wMinus : WritesNumber f minus s out parts (f.sub (bits fs) (bits ft)))
      (wTimes : WritesNumber f times s out parts (f.mul (bits fs) (bits ft)))
      (wDivided : WritesNumber f divided s out parts (f.div (bits fs) (bits ft)))
      (wRoot : WritesNumber f root s out parts (f.sqrt (bits fs))) :
      forms f bits plus minus times divided root out parts := by
    refine ⟨fun ha hb => ?_, fun ha hb => ?_, fun ha hb => ?_, fun ha h0 hb => ?_, fun ha hb h0 => ?_, fun ha hb => ?_,
      fun ha h0 => ?_, fun ha => wRoot.infinity (FloatFmt.sqrt_infinity ha)⟩
    · obtain ⟨sum, difference, quotient, product⟩ := FloatFmt.infinity_number ha hb
      exact ⟨wPlus.infinity sum, wMinus.infinity difference, wDivided.infinity quotient,
        fun h0 => wTimes.infinity (product h0)⟩
    · obtain ⟨sum, difference, quotient, product⟩ := FloatFmt.number_infinity ha hb
      exact ⟨wPlus.infinity sum, wMinus.infinity difference, wDivided.zero quotient,
        fun h0 => wTimes.infinity (product h0)⟩
    · obtain ⟨sum, difference, product⟩ := FloatFmt.infinity_infinity ha hb
      exact ⟨fun same => wPlus.infinity (sum same), fun other => wMinus.infinity (difference other),
        wTimes.infinity product⟩
    · obtain ⟨quotient, product⟩ := FloatFmt.number_zero ha h0 hb
      exact ⟨wDivided.infinity quotient, wTimes.zero product⟩
    · obtain ⟨quotient, product⟩ := FloatFmt.zero_number ha hb h0
      exact ⟨wDivided.zero quotient, wTimes.zero product⟩
    · obtain ⟨sum, difference, product⟩ := FloatFmt.zero_zero ok ha hb
      exact ⟨wPlus.zero sum, wMinus.zero difference, wTimes.zero product⟩
    · obtain ⟨sum, difference⟩ := FloatFmt.number_cancels ha h0
      exact ⟨fun hb => wPlus.zero (sum hb), fun hb => wMinus.zero (difference hb)⟩
  have single {i c r} := writesNumber_single (i := i) (c := c) (fd := fd) (r := r) h
  have double {i c r} := writesNumber_double (i := i) (c := c) (fd := fd) (r := r) h
  exact ⟨all .single FloatFmt.single_ok (fun i => (s.fw i).toNat)
      (single rfl) (single rfl) (single rfl) (single rfl) (single rfl),
    all .double FloatFmt.double_ok (fun i => (s.fl i).toNat)
      (double rfl) (double rfl) (double rfl) (double rfl) (double rfl)⟩

end Sys2Proof.Machine
end

section
/-! PROOFS. The conversions to and from floating point (R281, R283, R306 to R315). -/

namespace Sys2Proof.Machine

variable {f : FloatFmt} {s : State}

/-! ## Values that need no rounding -/

/-- A significand that fits, at an exponent with room for it to be shifted up and to stay finite, is a value of the
format. -/
theorem FloatFmt.exists_value (neg : Bool) {m : ℕ} {e : ℤ} (h0 : m ≠ 0) (hm : m < 2 ^ (f.fracBits + 1))
    (low : f.minQuantum + f.fracBits ≤ e) (high : e + 2 ≤ f.minQuantum + f.maxExp) :
    ∃ bits, f.value bits = some (signOf neg * m * 2 ^ e) := by
  have two : (2 : ℚ) ≠ 0 := by norm_num
  have hL : Nat.log2 m < f.fracBits + 1 := (Nat.log2_lt h0).2 hm
  obtain ⟨k, hk⟩ : ∃ k, Nat.log2 m + k = f.fracBits := ⟨f.fracBits - Nat.log2 m, by omega⟩
  obtain ⟨t, ht⟩ : ∃ t : ℕ, e = f.minQuantum + t + k := ⟨(e - k - f.minQuantum).toNat, by omega⟩
  have lower : 2 ^ f.fracBits ≤ m * 2 ^ k := by
    rw [← hk, Nat.pow_add]
    exact Nat.mul_le_mul_right _ (Nat.log2_self_le h0)
  have upper : m * 2 ^ k < 2 ^ (f.fracBits + 1) := by
    rw [← hk, Nat.add_right_comm, Nat.pow_add]
    exact Nat.mul_lt_mul_of_pos_right Nat.lt_log2_self (Nat.two_pow_pos k)
  have finite : t * 2 ^ f.fracBits + m * 2 ^ k < f.infMagnitude := by
    have room : (t + 2) * 2 ^ f.fracBits ≤ f.infMagnitude := Nat.mul_le_mul_right _ (by omega)
    rw [Nat.add_mul] at room
    rw [Nat.pow_succ] at upper
    omega
  refine ⟨_, (f.value_signed neg upper.le (fun _ => lower) finite).trans (congrArg some ?_)⟩
  rw [ht, zpow_add₀ two _ (k : ℤ), zpow_natCast]
  push_cast
  ring

/-- Such a value is below the overflow threshold. -/
theorem FloatFmt.lt_overflowAt (ok : f.Ok) {m : ℕ} {e : ℤ} (hm : m < 2 ^ (f.fracBits + 1))
    (high : e + 2 ≤ f.minQuantum + f.maxExp) : (m : ℚ) * 2 ^ e < f.overflowAt := by
  have h3 := ok.maxExp_ge
  have hm : (m : ℚ) + 1 ≤ 2 ^ (f.fracBits + 1) := by exact_mod_cast hm
  have he : (2 : ℚ) ^ e ≤ 2 ^ (f.minQuantum + (f.maxExp - 2 : ℕ)) := zpow_le_zpow_right₀ (by norm_num) (by omega)
  calc (m : ℚ) * 2 ^ e ≤ m * 2 ^ (f.minQuantum + (f.maxExp - 2 : ℕ)) := mul_le_mul_of_nonneg_left he (by positivity)
    _ < f.overflowAt := mul_lt_mul_of_pos_right (by linarith) (by positivity)

/-- A value of the format rounds to itself, its sign kept. -/
theorem FloatFmt.Rounded.exact {x : ℚ} {bits other : ℕ} (h : f.Rounded x bits) (hx : f.value other = some x)
    (small : |x| < f.overflowAt) : f.value bits = some x := by
  obtain ⟨v, hv, nearest⟩ := h.1 small
  have closest : |v - x| ≤ |x - x| := (nearest other x hx).1
  rw [sub_self, abs_zero] at closest
  rw [hv, sub_eq_zero.1 (abs_nonpos_iff.1 closest)]

/-- A significand that fits is rounded to its value under its sign, a zero too. -/
theorem FloatFmt.round_exact (ok : f.Ok) (neg : Bool) {m : ℕ} {e : ℤ} (hm : m < 2 ^ (f.fracBits + 1))
    (low : f.minQuantum + f.fracBits ≤ e) (high : e + 2 ≤ f.minQuantum + f.maxExp) :
    f.value (f.round neg m e) = some (signOf neg * m * 2 ^ e) ∧ (f.negative (f.round neg m e) ↔ neg = true) := by
  rcases Nat.eq_zero_or_pos m with rfl | pos
  · rw [f.round_zero, FloatFmt.value, FloatFmt.unpack_signed_zero ok]
    exact ⟨by simp [FloatVal.rat?_fin], f.negative_signed neg f.signBit_pos⟩
  · have rounded := FloatFmt.round_rounded ok neg e pos
    obtain ⟨other, hv⟩ := FloatFmt.exists_value neg pos.ne' hm low high
    have magnitude : (0 : ℚ) < m * 2 ^ e := by positivity
    have small : |signOf neg * m * 2 ^ e| < f.overflowAt := by
      rw [mul_assoc, abs_mul, abs_signOf, one_mul, abs_of_pos magnitude]
      exact FloatFmt.lt_overflowAt ok hm high
    refine ⟨rounded.exact hv small, rounded.2.2.trans ?_⟩
    cases neg <;> simp only [signOf, Bool.false_eq_true, if_false, if_true, iff_false, iff_true, not_lt] <;> linarith

/-! ## Conversions to floating point -/

theorem FloatFmt.negative_iff_sign {bits : ℕ} : f.negative bits ↔ f.sign bits = true := beq_iff_eq.symm

/-- What a conversion that is exact gives: the number, under the sign of what is converted. -/
def FloatFmt.Exact (f : FloatFmt) (x : ℚ) (minus : Prop) (bits : ℕ) : Prop :=
  f.value bits = some x ∧ (f.negative bits ↔ minus)

theorem FloatFmt.Exact.mod {x : ℚ} {minus : Prop} {bits : ℕ} (h : f.Exact x minus bits) :
    f.Exact x minus (bits % (2 * f.signBit)) := by
  rwa [FloatFmt.Exact, f.value_mod, f.negative_mod]

/-- A single is a double of the same value and sign (R306). -/
theorem convert_single_exact {a : ℕ} {x : ℚ} (h : FloatFmt.single.value a = some x) :
    ∃ bits, FloatFmt.single.convert .double a = some bits ∧
      FloatFmt.double.Exact x (FloatFmt.single.negative a) bits := by
  obtain ⟨neg, m, e, hu, rfl⟩ := FloatVal.fin_of_rat? h
  obtain ⟨bound, low⟩ := FloatFmt.unpack_bounds hu
  have high := FloatFmt.unpack_exp_le FloatFmt.single_ok hu
  refine ⟨FloatFmt.double.round neg m e, by rw [FloatFmt.convert, hu], ?_⟩
  rw [FloatFmt.negative_iff_sign, FloatFmt.sign_of_unpack hu]
  have wider : (2 : ℕ) ^ (FloatFmt.single.fracBits + 1) ≤ 2 ^ (FloatFmt.double.fracBits + 1) := by decide
  have q : FloatFmt.single.minQuantum = -149 := by decide
  have q' : FloatFmt.double.minQuantum = -1074 := by decide
  have top : FloatFmt.single.maxExp = 255 := by decide
  have top' : FloatFmt.double.maxExp = 2047 := by decide
  have p' : FloatFmt.double.fracBits = 52 := rfl
  exact FloatFmt.round_exact FloatFmt.double_ok neg (bound.trans_le wider) (by omega) (by omega)

/-- An integer converted is its magnitude rounded under its sign. -/
theorem FloatFmt.ofInt_eq_round (f : FloatFmt) (i : ℤ) : f.ofInt i = f.round (decide (i < 0)) i.natAbs 0 := by
  simp [FloatFmt.ofInt, FloatFmt.round, pow2Num, pow2Den]

/-- Every 32-bit integer is a double (R313). -/
theorem double_ofInt_exact (w : Word) : FloatFmt.double.Exact w.toInt (w.toInt < 0) (FloatFmt.double.ofInt w.toInt) := by
  have bound : w.toInt.natAbs < 2 ^ (FloatFmt.double.fracBits + 1) := by
    have below := w.toInt_lt
    have above := w.le_toInt
    simp only [FloatFmt.double]
    omega
  have exact := FloatFmt.round_exact (e := 0) FloatFmt.double_ok (decide (w.toInt < 0)) bound (by decide) (by decide)
  rwa [zpow_zero, mul_one, signOf_natAbs, decide_eq_true_iff, ← FloatFmt.ofInt_eq_round] at exact

/-- A number converted is its rounding (R309). -/
theorem FloatFmt.convert_rounded {src dst : FloatFmt} (ok : dst.Ok) {a : ℕ} {x : ℚ} (h : src.value a = some x)
    (h0 : x ≠ 0) : ∃ bits, src.convert dst a = some bits ∧ dst.Rounded x bits := by
  obtain ⟨neg, m, e, hu, rfl⟩ := FloatVal.fin_of_rat? h
  have pos : 0 < m := Nat.pos_of_ne_zero (by rintro rfl; simp at h0)
  exact ⟨dst.round neg m e, by rw [FloatFmt.convert, hu], FloatFmt.round_rounded ok neg e pos⟩

/-- A zero converted is the zero of its sign. -/
theorem FloatFmt.convert_zero {src dst : FloatFmt} (ok : src.Ok) {a : ℕ} {n : Bool} (h : a = src.signed n 0) :
    src.convert dst a = some (dst.signed n 0) := by
  rw [h, FloatFmt.convert, FloatFmt.unpack_signed_zero ok]
  exact congrArg some (dst.round_zero n _)

/-- An infinity converted is the infinity of its sign. -/
theorem FloatFmt.convert_infinity {src dst : FloatFmt} {a : ℕ} {n : Bool} (h : src.unpack a = .inf n) :
    src.convert dst a = some (dst.infinity n) := by
  rw [FloatFmt.convert, h]
  rfl

/-- The integer 0 converted is +0. -/
theorem FloatFmt.ofInt_of_eq_zero (f : FloatFmt) {i : ℤ} (h : i = 0) : some (f.ofInt i) = some (f.signed false 0) := by
  rw [h]
  exact congrArg some (f.roundFrac_zero false 1)

/-- Settles O37: each conversion is exact, or rounded once, or keeps an infinity or a zero. -/
theorem conversionsToFloat : Obligations.ConversionsToFloat := by
  intro s fd fs x n h toSingle toDouble single double
  have cvtDS : WritesNumber .double (.cvtDS fd fs) s _ _ _ := writesNumber_double h rfl
  have cvtSD : WritesNumber .single (.cvtSD fd fs) s _ _ _ := writesNumber_single h rfl
  have cvtSW : WritesNumber .single (.cvtSW fd fs) s _ _ (some (single.ofInt (s.fw fs).toInt)) := writesNumber_single h rfl
  have cvtDW : WritesNumber .double (.cvtDW fd fs) s _ _ (some (double.ofInt (s.fw fs).toInt)) := writesNumber_double h rfl
  have cvtSL : WritesNumber .single (.cvtSL fd fs) s _ _ (some (single.ofInt (s.fl fs).toInt)) := writesNumber_single h rfl
  have cvtDL : WritesNumber .double (.cvtDL fd fs) s _ _ (some (double.ofInt (s.fl fs).toInt)) := writesNumber_double h rfl
  refine ⟨fun hx => ?_, fun hx => cvtDS.infinity (FloatFmt.convert_infinity hx),
    fun hx h0 => cvtSD.rounded (FloatFmt.convert_rounded FloatFmt.single_ok hx h0),
    fun hx => cvtSD.zero (FloatFmt.convert_zero FloatFmt.double_ok hx),
    fun hx => cvtSD.infinity (FloatFmt.convert_infinity hx),
    fun h0 => cvtSW.rounded ⟨_, rfl, FloatFmt.ofInt_rounded FloatFmt.single_ok h0⟩,
    fun h0 => cvtSW.zero (FloatFmt.ofInt_of_eq_zero _ h0),
    cvtDW.completes (P := FloatFmt.double.Exact _ _) ⟨_, rfl, (double_ofInt_exact _).mod⟩,
    fun h0 => ⟨cvtSL.rounded ⟨_, rfl, FloatFmt.ofInt_rounded FloatFmt.single_ok h0⟩,
      cvtDL.rounded ⟨_, rfl, FloatFmt.ofInt_rounded FloatFmt.double_ok h0⟩⟩,
    fun h0 => ⟨cvtSL.zero (FloatFmt.ofInt_of_eq_zero _ h0), cvtDL.zero (FloatFmt.ofInt_of_eq_zero _ h0)⟩⟩
  obtain ⟨bits, hr, exact⟩ := convert_single_exact hx
  exact cvtDS.completes (P := FloatFmt.double.Exact _ _) ⟨bits, hr, exact.mod⟩

/-! ## Conversions to an integer -/

/-- A conversion has an integer result where its operand is that integer, in range (R283). -/
theorem FloatFmt.toInt?_eq_some {width a : ℕ} {k : ℤ} :
    f.toInt? width a = some k ↔ f.value a = some (k : ℚ) ∧ -2 ^ (width - 1) ≤ k ∧ k < 2 ^ (width - 1) := by
  rw [FloatFmt.value, ← FloatVal.integral?_eq_some, FloatFmt.toInt?]
  cases (f.unpack a).integral? with
  | none => simp
  | some i =>
    simp only [Option.ite_none_right_eq_some, Option.some.injEq]
    constructor
    · rintro ⟨range, rfl⟩
      exact ⟨rfl, range⟩
    · rintro ⟨rfl, range⟩
      exact ⟨range, rfl⟩

/-- An integer in range is what its two's complement word stands for. -/
theorem toInt_ofInt_of_range {width : ℕ} (hw : 0 < width) {k : ℤ} (low : -2 ^ (width - 1) ≤ k)
    (high : k < 2 ^ (width - 1)) : (BitVec.ofInt width k).toInt = k := by
  obtain ⟨n, rfl⟩ := Nat.exists_eq_succ_of_ne_zero hw.ne'
  rw [BitVec.toInt_ofInt]
  simp only [Nat.succ_eq_add_one, Nat.add_sub_cancel] at low high ⊢
  have double : ((2 ^ (n + 1) : ℕ) : ℤ) = 2 * 2 ^ n := by push_cast; ring
  exact Int.bmod_eq_of_le (by omega) (by omega)

/-- A 32-bit conversion of an integral value in range writes it. -/
theorem cvtWord_exact {i : Instr} {c : Config.FpCall} {fd : Reg} {a : ℕ} {k : ℤ}
    (hex : exec i s = writeInt32 c fd (f.toInt? 32 a) s) (hv : f.value a = some (k : ℚ))
    (range : -2 ^ 31 ≤ k ∧ k < 2 ^ 31) : Completes i s fun t => (t.fw fd).toInt = k ∧ OnlyChanges [.fw fd] s t := by
  rw [FloatFmt.toInt?_eq_some.2 ⟨hv, range⟩] at hex
  refine ⟨_, hex, ?_, onlyChanges_setFw ..⟩
  simp only [fw_setFw_self]
  exact toInt_ofInt_of_range (by decide) range.1 range.2

/-- A 64-bit conversion of an integral value in range writes it. -/
theorem cvtLong_exact {i : Instr} {c : Config.FpCall} {fd : Reg} {a : ℕ} {k : ℤ}
    (hex : exec i s = writeInt64 c fd (f.toInt? 64 a) s) (hv : f.value a = some (k : ℚ))
    (range : -2 ^ 63 ≤ k ∧ k < 2 ^ 63) :
    Completes i s fun t => (t.fl fd).toInt = k ∧ OnlyChanges (pairParts fd) s t := by
  rw [FloatFmt.toInt?_eq_some.2 ⟨hv, range⟩] at hex
  refine ⟨_, hex, ?_, onlyChanges_setFl ..⟩
  simp only [fl_setFl_self]
  exact toInt_ofInt_of_range (by decide) range.1 range.2

/-- A value is an integer in the range of `width` bits. -/
def FloatFmt.ExactInt (f : FloatFmt) (a width : ℕ) : Prop :=
  ∃ k : ℤ, f.value a = some (k : ℚ) ∧ -2 ^ (width - 1) ≤ k ∧ k < 2 ^ (width - 1)

/-- A 32-bit conversion completes on any operand, with FP_TO_INT's result where it is no integer in range. -/
theorem cvtWord_completes {i : Instr} {c : Config.FpCall} {fd : Reg} {a : ℕ}
    (hex : exec i s = writeInt32 c fd (f.toInt? 32 a) s) :
    Completes i s fun t => (¬f.ExactInt a 32 → ∀ v, s.params.fpToInt.lookup c = some v → t.fw fd = v.setWidth 32) ∧
      OnlyChanges [.fw fd, .draws] s t := by
  have frame (v : Word) : OnlyChanges [.fw fd, .draws] s (s.setFw fd v) := (onlyChanges_setFw s fd v).mono (by simp)
  cases hr : f.toInt? 32 a with
  | some k =>
    rw [hr] at hex
    exact ⟨_, hex, fun inexact => absurd ⟨k, FloatFmt.toInt?_eq_some.1 hr⟩ inexact, frame _⟩
  | none =>
    cases given : s.params.fpToInt.lookup c with
    | some v =>
      refine ⟨_, hex.trans (by rw [hr, writeInt32, given]), ?_, frame (v.setWidth 32)⟩
      rintro - _ ⟨⟩
      exact fw_setFw_self ..
    | none =>
      exact ⟨_, hex.trans (by rw [hr, writeInt32, given]), by simp,
        (frame s.drawWord).trans ((onlyChanges_useDraws _ 1).mono (by simp))⟩

/-- A 64-bit conversion completes on any operand, with FP_TO_INT's result where it is no integer in range. -/
theorem cvtLong_completes {i : Instr} {c : Config.FpCall} {fd : Reg} {a : ℕ}
    (hex : exec i s = writeInt64 c fd (f.toInt? 64 a) s) :
    Completes i s fun t => (¬f.ExactInt a 64 → ∀ v, s.params.fpToInt.lookup c = some v → t.fl fd = v) ∧
      OnlyChanges (.draws :: pairParts fd) s t := by
  have frame (v : DWord) : OnlyChanges (.draws :: pairParts fd) s (s.setFl fd v) :=
    (onlyChanges_setFl s fd v).mono (by simp)
  cases hr : f.toInt? 64 a with
  | some k =>
    rw [hr] at hex
    exact ⟨_, hex, fun inexact => absurd ⟨k, FloatFmt.toInt?_eq_some.1 hr⟩ inexact, frame _⟩
  | none =>
    cases given : s.params.fpToInt.lookup c with
    | some v =>
      refine ⟨_, hex.trans (by rw [hr, writeInt64, given]), ?_, frame v⟩
      rintro - _ ⟨⟩
      exact fl_setFl_self ..
    | none =>
      exact ⟨_, hex.trans (by rw [hr, writeInt64, given]), by simp,
        (frame s.drawDouble).trans ((onlyChanges_useDraws _ 1).mono (by simp))⟩

/-- Settles O38: each conversion is a `writeInt32` or a `writeInt64` of the integer its operand is in range, if any. -/
theorem conversionsToInteger : Obligations.ConversionsToInteger := by
  intro s fd fs k
  exact ⟨fun hv => ⟨cvtWord_exact rfl hv, cvtLong_exact rfl hv⟩,
    fun hv => ⟨cvtWord_exact rfl hv, cvtLong_exact rfl hv⟩,
    cvtWord_completes rfl, cvtWord_completes rfl, cvtLong_completes rfl, cvtLong_completes rfl⟩

end Sys2Proof.Machine
end

section
/-! PROOFS. The no-op, the breakpoint, the barrier and the traps (R342 to R357). -/

namespace Sys2Proof.Machine

variable {s : State}

/-! ## nop, break and sync -/

/-- A barrier under SYNC_MODE = noop (R344). -/
theorem execSync_noop (stype : BitVec 5) (h : s.params.syncMode = .noop) : execSync stype s = .next s := by
  rw [execSync, h]

/-- A barrier under SYNC_MODE = fault (R344). -/
theorem execSync_fault (stype : BitVec 5) (h : s.params.syncMode = .fault) :
    execSync stype s = raise (.unimplemented s.live.pc .generic "sync") s := by
  rw [execSync, h]

/-- Settles O41: `nop` answers its own state, `break` raises its fault, and `sync` does either by its setting. -/
theorem nopBreakSync : Obligations.NopBreakSync := by
  intro s sa stype code
  refine ⟨⟨s, rfl, rfl⟩, fun mode => ⟨s, execSync_noop stype mode, rfl⟩,
    fun hr => ⟨raise_completes _ hr, fun mode => ?_⟩⟩
  exact completes_of_exec_eq (execSync_fault stype mode) (raise_completes _ hr)

/-! ## The conditions of the traps as numbers -/

theorem not_slt_iff {a b : Word} : (!a.slt b) = true ↔ b.toInt ≤ a.toInt := by
  rw [← BitVec.sle_eq_not_slt, BitVec.sle_iff_toInt_le]

theorem not_ult_iff {a b : Word} : (!a.ult b) = true ↔ b.toNat ≤ a.toNat := by
  rw [← BitVec.ule_eq_not_ult, BitVec.ule_iff_toNat_le]

/-! ## The traps -/

/-- A trap on a condition, under both settings of TRAP_MODE (R345). -/
theorem trapIf_completes {c : Bool} {cond : Prop} {n : String} (hr : s.faultRecord = none) (hc : c = true ↔ cond) :
    (s.params.trapMode = .conditional → cond → ∃ t, trapIf c n s = .next t ∧
      t.faultRecord = some (.trap s.live.pc n) ∧ OnlyChanges [.faultRecord] s t) ∧
    (s.params.trapMode = .conditional → ¬cond → ∃ t, trapIf c n s = .next t ∧ t = s) ∧
    (s.params.trapMode = .unimplemented → ∃ t, trapIf c n s = .next t ∧
      t.faultRecord = some (.unimplemented s.live.pc .generic n) ∧ OnlyChanges [.faultRecord] s t) := by
  refine ⟨fun mode h => ?holds, fun mode h => ?fails, fun mode => ?unimplemented⟩
  case holds =>
    rw [hc.2 h, trapIf_true n mode]
    exact raise_completes _ hr
  case fails =>
    rw [Bool.eq_false_iff.2 (mt hc.1 h), trapIf_false n mode]
    exact ⟨s, rfl, rfl⟩
  case unimplemented =>
    rw [trapIf_unimplemented c n mode]
    exact raise_completes _ hr

/-- Settles O42: each is a trap on its condition, those on an immediate by the number it stands for. -/
theorem traps : Obligations.Traps := by
  intro s rs rt code imm hr traps
  refine ⟨trapIf_completes hr not_slt_iff, trapIf_completes hr not_ult_iff,
    trapIf_completes hr BitVec.slt_iff_toInt_lt, trapIf_completes hr BitVec.ult_iff_toNat_lt,
    trapIf_completes hr beq_iff_eq, trapIf_completes hr bne_iff_ne,
    trapIf_completes hr ?tgei, trapIf_completes hr ?tgeiu, trapIf_completes hr ?tlti, trapIf_completes hr ?tltiu,
    trapIf_completes hr ?teqi, trapIf_completes hr ?tnei⟩
  case tgei => rw [not_slt_iff, toInt_sextImm]
  case tgeiu => rw [not_ult_iff, ← toNat_sextImm, Nat.cast_le]
  case tlti => rw [BitVec.slt_iff_toInt_lt, toInt_sextImm]
  case tltiu => rw [BitVec.ult_iff_toNat_lt, ← toNat_sextImm, Nat.cast_lt]
  case teqi => rw [beq_iff_eq, ← toInt_sextImm, BitVec.toInt_inj]
  case tnei => rw [bne_iff_ne, ← toInt_sextImm, BitVec.toInt_ne]

end Sys2Proof.Machine
end

section
/-! PROOFS. The launch (R384, R400 to R402), and the runs that have ended (R370, R391). -/

namespace Sys2Proof.Machine

/-! ## The launch's registers -/

/-- Every named register is 0 at reset (R47). -/
theorem getNamed_atEntry (entry : Word) (n : RegName) : (Regs.atEntry entry).getNamed n = 0 := by
  cases n with
  | x i => exact getX_atEntry entry i
  | fw i => exact getFw_atEntry entry i
  | lo | hi | ea | fcsr => rfl

/-- A register given a value starts with the last one given (R402, log 14). -/
theorem LaunchThread.getNamed_of_lastGiven {t : LaunchThread} {n : RegName} {v : Word} (h : LastGiven t.regs n v) :
    t.registers.getNamed n = v := by
  obtain ⟨pre, post, given, last⟩ := h
  rw [LaunchThread.registers, given]
  exact Regs.getNamed_setAll_last last

/-- A register given none starts at 0 (R47, R401). -/
theorem LaunchThread.getNamed_of_notGiven {t : LaunchThread} {n : RegName} (h : NotGiven t.regs n) :
    t.registers.getNamed n = 0 :=
  (Regs.getNamed_setAll_of_notMem h).trans (getNamed_atEntry t.entry n)

/-! ## The launch's memory -/

/-- The image's bytes, their addresses taken as words. -/
def imageBytes (image : List Host.Cell) : List (Word × Byte) := image.map fun c => (BitVec.ofNat 32 c.1, c.2)

/-- The launch writes the image's bytes in order over an empty memory (R402). -/
theorem launchMemory_eq_setBytes (image : List Host.Cell) :
    launchMemory image = Memory.setBytes [] (imageBytes image) := by
  rw [Memory.setBytes, imageBytes, List.foldl_map]
  rfl

/-- The image with its addresses reduced is that of its bytes. -/
theorem map_toNat_imageBytes (image : List Host.Cell) :
    (image.map fun c => (c.1 % 2 ^ 32, c.2)) = (imageBytes image).map (Prod.map BitVec.toNat id) := by
  rw [imageBytes, List.map_map]
  rfl

/-- The last value given to a key is the last given to it under other names for the keys. -/
theorem LastGiven.of_map {α β γ : Type} {g : α → γ} {l : List (α × β)} {k : α} {v : β} (hg : Function.Injective g)
    (h : LastGiven (l.map (Prod.map g id)) (g k) v) : LastGiven l k v := by
  obtain ⟨pre, post, given, last⟩ := h
  obtain ⟨pre', rest, rfl, -, hrest⟩ := List.map_eq_append_iff.1 given
  obtain ⟨⟨k', v'⟩, post', rfl, head, rfl⟩ := List.map_eq_cons_iff.1 hrest
  obtain ⟨key, rfl⟩ := Prod.mk.inj head
  obtain rfl := hg key
  exact ⟨pre', post', rfl, fun _ hp e => last _ (List.mem_map_of_mem hp) (congrArg g e)⟩

/-- A key given no value is given none under its own name. -/
theorem NotGiven.of_map {α β γ : Type} {g : α → γ} {l : List (α × β)} {k : α}
    (h : NotGiven (l.map (Prod.map g id)) (g k)) : NotGiven l k :=
  fun _ hp e => h _ (List.mem_map_of_mem hp) (congrArg g e)

/-- A byte given a value holds the last one given (R402, log 14). -/
theorem byteAt_launchMemory_of_lastGiven {image : List Host.Cell} {a : Word} {v : Byte}
    (h : LastGiven (image.map fun c => (c.1 % 2 ^ 32, c.2)) a.toNat v) : (launchMemory image).byteAt a = v := by
  rw [map_toNat_imageBytes] at h
  obtain ⟨pre, post, given, last⟩ := h.of_map fun _ _ => BitVec.eq_of_toNat_eq
  rw [launchMemory_eq_setBytes, given]
  exact Memory.byteAt_setBytes_last last

/-- A byte given none is 0 (R402). -/
theorem byteAt_launchMemory_of_notGiven {image : List Host.Cell} {a : Word}
    (h : NotGiven (image.map fun c => (c.1 % 2 ^ 32, c.2)) a.toNat) : (launchMemory image).byteAt a = 0 := by
  rw [map_toNat_imageBytes] at h
  rw [launchMemory_eq_setBytes]
  exact Memory.byteAt_setBytes_of_notMem h.of_map

/-- The launch's memory is in canonical form. -/
theorem wf_launchMemory (image : List Host.Cell) : (launchMemory image).wf = true := by
  rw [launchMemory_eq_setBytes]
  exact Memory.wf_setBytes _ rfl

/-- Settles O7: the registers of each thread, the bytes of the image, and the rest as the launch gives it. -/
theorem launchState : Obligations.LaunchState := by
  intro l s starts image
  have started (t : LaunchThread) : starts t t.thread := by
    obtain ⟨pc, npc, nnpc⟩ := Regs.setAll_counters (Regs.atEntry t.entry) t.regs
    exact ⟨rfl, rfl, pc, npc, nnpc, fun _ _ => t.getNamed_of_lastGiven, fun _ => t.getNamed_of_notGiven, rfl, rfl⟩
  have waiting : List.Forall₂ starts l.rest (l.rest.map LaunchThread.thread) :=
    List.forall₂_map_right_iff.2 (List.forall₂_same.2 fun t _ => started t)
  exact ⟨started l.first, waiting, fun _ _ => byteAt_launchMemory_of_lastGiven,
    fun _ => byteAt_launchMemory_of_notGiven, wf_launchMemory l.image, rfl, rfl, rfl, rfl, rfl, rfl, rfl, rfl⟩

/-! ## Runs that have ended -/

/-- A run stopped by a fault answers with that fault (R370). -/
theorem answerIfEnded_fault {s : State} {f : Fault} (hf : s.faultRecord = some f) (he : s.runEnd = none) :
    s.answerIfEnded = some (.fault f) := by
  rw [State.answerIfEnded, hf, he]

/-- A run that ended without one answers how it ended (R391). -/
theorem answerIfEnded_end {s : State} {e : RunEnd} (he : s.runEnd = some e) (hf : s.faultRecord = none) :
    s.answerIfEnded = some (.refused (.runEnded e)) := by
  rw [State.answerIfEnded, hf, he]
  cases e <;> rfl

/-- Once the run has ended, a step is that answer. -/
theorem step_of_answer {s : State} {r : Res} (h : s.answerIfEnded = some r) : step s = r := by
  rw [step, h]

/-- A thread at the halt address takes no step (R391). -/
theorem stepWith_halted {execute : StaticInst → State → Res} {s : State} (hp : s.pendingStore = none)
    (hh : s.haltPc = some s.live.pc) : stepWith execute s = .refused (.runEnded .halted) := by
  simp [stepWith, hp, hh]

/-- Settles O53, by what an ended run answers, and the test of the halt address before a thread's step. -/
theorem endedRunTakesNoStep : Obligations.EndedRunTakesNoStep :=
  ⟨fun _ _ hf he => step_of_answer (answerIfEnded_fault hf he),
    fun _ _ he hf => step_of_answer (answerIfEnded_end he hf),
    fun _ _ h => (step_next_cases h).1,
    fun _ ⟨hf, he⟩ hsch hp hh => (step_eq_stepThread hf he hsch).trans (stepWith_halted hp hh)⟩

end Sys2Proof.Machine
end

section
/-! PROOFS. Faults are precise (R370, R375, R376, R387). -/

namespace Sys2Proof.Machine

variable {s t u : State} {r : Res}

/-! ## The pc of a fault -/

/-- An access that faults records the thread's pc (R370). -/
theorem pc_of_accessFault {a : Word} {n : Nat} {f : Fault} (h : s.accessFault a n = some f) : f.pc = s.live.pc := by
  unfold State.accessFault at h
  split_ifs at h
  all_goals exact Option.some.inj h ▸ rfl

/-- So do the bytes the host reads for `write` (R341). -/
theorem pc_of_hostBytes {a : Word} {n : Nat} {f : Fault} (h : s.hostBytes a n = .error f) : f.pc = s.live.pc := by
  induction n generalizing a with
  | zero => cases h
  | succ n ih =>
    unfold State.hostBytes at h
    split at h
    case h_1 g check => exact Except.error.inj h ▸ pc_of_accessFault check
    case h_2 =>
      split at h
      case h_1 => cases h
      case h_2 g rest => exact ih (rest.trans h)

/-- And the accesses of a host answer (R341). -/
theorem pc_of_firstAccessFault {as : List (Word × Nat)} {f : Fault} (h : s.firstAccessFault as = some f) :
    f.pc = s.live.pc := by
  induction as with
  | nil => cases h
  | cons p rest ih =>
    unfold State.firstAccessFault at h
    split at h
    case h_1 g check => exact pc_of_accessFault (check.trans h)
    case h_2 => exact ih h

/-- A decode that faults records the address decoded (R66). -/
theorem pc_of_decodeAt {pc : Word} {f : Fault} (h : s.decodeAt pc = .error f) : f.pc = pc := by
  unfold State.decodeAt State.fetchFault at h
  split at h
  · cases h
  · split at h
    case h_1 g check =>
      obtain rfl := Except.error.inj h
      split_ifs at check
      all_goals exact Option.some.inj check ▸ rfl
    case h_2 => cases h

/-! ## Precise results -/

/-- A fault left in the empty record of `s` is one of its `pc`, and nothing else but `ea` is written (R370, R376). -/
def Precise (s : State) (r : Res) : Prop :=
  ∀ t f, r = .next t → s.faultRecord = none → t.faultRecord = some f →
    f.pc = s.live.pc ∧ OnlyChanges [.ea, .faultRecord] s t

/-- A result that leaves the record as it was. -/
theorem Precise.quiet (h : t.faultRecord = s.faultRecord) : Precise s (.next t) := by
  rintro _ f ⟨⟩ empty record
  exact absurd (record.symm.trans (h.trans empty)) (Option.some_ne_none f)

/-- A fault of the thread's pc, recorded. -/
theorem precise_raise {f : Fault} (h : f.pc = s.live.pc) : Precise s (raise f s) := by
  rintro _ g ⟨⟩ empty record
  obtain rfl : f = g := by simpa [empty] using record
  exact ⟨h, (onlyChanges_recordFault s f).mono (by simp)⟩

/-- An access that writes `ea`, and where it faults the record alone besides. -/
theorem WritesEa.precise {a : Word} {n : Nat} (h : WritesEa a n s r) : Precise s r := by
  obtain ⟨t, rfl, -, record, frame⟩ := h
  rintro _ f ⟨⟩ empty fault
  have check : s.accessFault a n = some f := (record empty).symm.trans fault
  exact ⟨pc_of_accessFault check, frame f check⟩

/-! ## The shared operations -/

theorem precise_warnedWrite (n : String) (d : Reg) (v : Int) : Precise s (warnedWrite n d v s) := by
  unfold warnedWrite State.warnOverflow
  split <;> exact .quiet rfl

theorem precise_branchIf (c : Bool) (offset : BitVec 16) : Precise s (branchIf c offset s) := by
  cases c <;> exact .quiet rfl

theorem precise_branchLikelyIf (c : Bool) (offset : BitVec 16) : Precise s (branchLikelyIf c offset s) := by
  cases c <;> exact .quiet rfl

theorem precise_linkThenBranchIf (c : Bool) (offset : BitVec 16) : Precise s (linkThenBranchIf c offset s) := by
  cases c <;> exact .quiet rfl

theorem precise_unlessClash {c : Bool} {mode : Config.LinkClash} {n : String} (h : Precise s r) :
    Precise s (unlessClash c mode n s r) := by
  cases c <;> cases mode
  case true.fault => exact precise_raise rfl
  all_goals exact h

theorem precise_trapIf (c : Bool) (n : String) : Precise s (trapIf c n s) := by
  unfold trapIf
  split
  · cases c
    · exact .quiet rfl
    · exact precise_raise rfl
  · exact precise_raise rfl

theorem precise_execSync (stype : BitVec 5) : Precise s (execSync stype s) := by
  unfold execSync
  split
  · exact precise_raise rfl
  · exact .quiet rfl

theorem precise_divideByZero (n : String) : Precise s (divideByZero n s) := by
  unfold divideByZero
  split
  · exact precise_raise rfl
  · exact .quiet rfl

theorem precise_divideOverflow : Precise s (divideOverflow s) := by
  unfold divideOverflow
  split
  · exact precise_raise rfl
  · exact .quiet rfl

theorem precise_execDiv (rs rt : Reg) : Precise s (execDiv rs rt s) := by
  unfold execDiv
  dsimp only
  split_ifs
  · exact precise_divideByZero _
  · exact precise_divideOverflow
  · exact .quiet rfl

theorem precise_execDivu (rs rt : Reg) : Precise s (execDivu rs rt s) := by
  unfold execDivu
  dsimp only
  split_ifs
  · exact precise_divideByZero _
  · exact .quiet rfl

theorem precise_ungated (n : String) : Precise s (ungated n s) := by
  unfold ungated
  split
  · exact .quiet rfl
  · exact precise_raise rfl

theorem precise_execCfc1 (rt fs : Reg) : Precise s (execCfc1 rt fs s) := by
  unfold execCfc1
  split_ifs
  · exact .quiet rfl
  · exact precise_ungated _

theorem precise_execCtc1 (rt fs : Reg) : Precise s (execCtc1 rt fs s) := by
  unfold execCtc1
  split_ifs
  · exact .quiet rfl
  · exact precise_ungated _

section
variable {c : Config.FpCall} {fd : Reg}

theorem precise_writeSingle {v : Option Nat} : Precise s (writeSingle c fd v s) := by
  obtain ⟨t, ht, -, -, -, frame⟩ := writeSingle_result (s := s) (c := c) (fd := fd) (r := v) Iff.rfl
  exact ht ▸ .quiet (frame.faultRecord (by simp))

theorem precise_writeDouble {v : Option Nat} : Precise s (writeDouble c fd v s) := by
  obtain ⟨t, ht, -, -, -, frame⟩ := writeDouble_result (s := s) (c := c) (fd := fd) (r := v) Iff.rfl
  exact ht ▸ .quiet (frame.faultRecord (by simp [pairParts]))

theorem precise_writeInt32 {v : Option Int} : Precise s (writeInt32 c fd v s) := by
  unfold writeInt32
  split
  · exact .quiet rfl
  · split <;> exact .quiet rfl

theorem precise_writeInt64 {v : Option Int} : Precise s (writeInt64 c fd v s) := by
  unfold writeInt64
  split
  · exact .quiet rfl
  · split <;> exact .quiet rfl

end

/-- A `write` with an unmapped byte appends nothing (log 11). -/
theorem precise_hostWriteTo {append : State → List Byte → State}
    (h : ∀ bytes, (append s bytes).faultRecord = s.faultRecord) : Precise s (hostWriteTo append s) := by
  unfold hostWriteTo
  split
  · exact .quiet (h _)
  · exact precise_raise (pc_of_hostBytes (by assumption))

theorem precise_hostWrite : Precise s (hostWrite s) := by
  unfold hostWrite
  split_ifs
  · exact precise_hostWriteTo fun _ => rfl
  · exact precise_hostWriteTo fun _ => rfl
  · exact .quiet rfl

theorem precise_hostCall (n : Word) : Precise s (hostCall n s) := by
  unfold hostCall
  split
  case h_3 => exact precise_hostWrite
  all_goals exact .quiet rfl

/-- A host answer with an access that faults leaves nothing done (log 11). -/
theorem precise_hostAnswered (answer : HostAnswer) (rest : List HostAnswer) (n : Word) :
    Precise s (hostAnswered answer rest n s) := by
  unfold hostAnswered
  split
  · exact .quiet rfl
  · exact .quiet rfl
  · split
    · exact precise_raise (pc_of_firstAccessFault (by assumption))
    · exact .quiet rfl

theorem precise_execSyscall (code : BitVec 20) : Precise s (execSyscall code s) := by
  unfold execSyscall
  split
  · exact precise_hostCall _
  · exact precise_hostAnswered _ _ _

/-! ## Every instruction -/

/-- A load or store ends as its access does; of the other implemented instructions, the operation each is made of faults
before it writes anything. -/
theorem exec_precise_of_implemented {i : Instr} (h : markerGroupOf i = none) (s : State) : Precise s (exec i s) := by
  cases i <;> cases h
  case brk => exact precise_raise rfl
  case syscall code => exact precise_execSyscall code
  case sync stype => exact precise_execSync stype
  case add | addi | sub => exact precise_warnedWrite _ _ _
  case div => exact precise_execDiv _ _
  case divu => exact precise_execDivu _ _
  case tge | tgeu | tlt | tltu | teq | tne | tgei | tgeiu | tlti | tltiu | teqi | tnei => exact precise_trapIf _ _
  case b | beq | bne | blez | bgtz | bltz | bgez | bc1f | bc1t => exact precise_branchIf _ _
  case bc1fl | bc1tl => exact precise_branchLikelyIf _ _
  case bltzal | bgezal => exact precise_unlessClash (precise_linkThenBranchIf _ _)
  case jalr => exact precise_unlessClash (.quiet rfl)
  case cfc1 => exact precise_execCfc1 _ _
  case ctc1 => exact precise_execCtc1 _ _
  case addS | subS | mulS | divS | sqrtS | cvtSD => exact precise_writeSingle
  case addD | subD | mulD | divD | sqrtD | cvtDS => exact precise_writeDouble
  case cvtWS | cvtWD => exact precise_writeInt32
  case cvtLS | cvtLD => exact precise_writeInt64
  case lb | lbu | lh | lhu | lw | ll | lwl | lwr | lwc1 | ldc1 | sb | sh | sw | swc1 | sdc1 | swl | swr | sc =>
    exact (exec_writesEa rfl).precise
  all_goals exact .quiet rfl

/-- Every instruction is precise: a marker raises its fault (R359). -/
theorem exec_precise (i : Instr) (s : State) : Precise s (exec i s) := by
  cases marker : markerGroupOf i with
  | some g => exact exec_marker s marker ▸ precise_raise rfl
  | none => exact exec_precise_of_implemented marker s

/-! ## The step -/

/-- A decoded leaf is precise: `Unknown` raises its fault (R358). -/
theorem execLeaf_precise (inst : StaticInst) (s : State) : Precise s (execLeaf inst s) := by
  unfold execLeaf
  split
  · exact exec_precise _ s
  · exact precise_raise rfl

/-- The second half of a partial-word store is precise (R63, R68). -/
theorem finishStore_precise (p : PendingStore) (s : State) : Precise s (finishStore p s) := by
  obtain ⟨f, check, e⟩ | ⟨-, e⟩ := finishStore_cases p s
  · exact e ▸ precise_raise (pc_of_accessFault check)
  · exact e ▸ .quiet rfl

/-- The counters do not advance after a fault, so a step's end is precise where its execution is (R376). -/
theorem Precise.finishStep (h : Precise s r) : Precise s (finishStep r) := by
  intro t f ht empty record
  obtain ⟨v, rfl, ⟨hf, -, -, rfl⟩ | ⟨-, rfl⟩⟩ := finishStep_next_cases ht
  · exact absurd (record.symm.trans hf) (Option.some_ne_none f)
  · exact h t f rfl empty record

/-- A frame from a state whatever its decode cache is a frame but for the cache. -/
theorem OnlyChanges.of_decodeCache {parts : List Part} {cache : List CacheEntry}
    (h : OnlyChanges parts { s with decodeCache := cache } t) :
    OnlyChanges parts s { t with decodeCache := s.decodeCache } := by
  obtain ⟨others, -, rest⟩ := h.outside
  exact { h with outside := ⟨others, rfl, rest⟩ }

/-- What a decode that succeeds changes is the decode cache (R42). -/
theorem OnlyChanges.of_decodeAt {parts : List Part} {pc : Word} {inst : StaticInst} (hd : s.decodeAt pc = .ok (inst, u))
    (h : OnlyChanges parts u t) : OnlyChanges parts s { t with decodeCache := s.decodeCache } := by
  obtain ⟨rfl, -⟩ | ⟨-, -, -, rfl⟩ := decodeAt_ok hd
  · exact h.of_decodeCache
  · exact h.of_decodeCache

/-- Settles O52: the store finished, the fetch, or the leaf executed with cell 0 zeroed is precise, and so is the step's
end. -/
theorem faultsArePrecise : Obligations.FaultsArePrecise := by
  intro s t f ⟨hf, he⟩ hsch h record
  rw [step_eq_stepThread hf he hsch] at h
  obtain ⟨p, -, h⟩ | ⟨-, -, ⟨g, hd, rfl⟩ | ⟨inst, u, hd, h⟩⟩ := stepWith_next_cases h
  · obtain ⟨pc, frame⟩ := (finishStore_precise p s).finishStep t f h hf record
    exact ⟨pc, (frame.mono (List.subset_cons_self ..)).of_decodeCache⟩
  · obtain ⟨pc, frame⟩ := precise_raise (pc_of_decodeAt hd) _ f rfl hf record
    exact ⟨pc, (frame.mono (List.subset_cons_self ..)).of_decodeCache⟩
  · obtain ⟨-, live, -⟩ := decodeAt_frame hd
    have running : u.running := running_of_decodeAt ⟨hf, he⟩ hd
    obtain ⟨pc, frame⟩ := (execLeaf_precise inst u.clearZero).finishStep t f h running.1 record
    have zeroed : OnlyChanges [.x 0, .ea, .faultRecord] u u.clearZero := (onlyChanges_setReg u 0 0).mono (by simp)
    exact ⟨pc.trans (congrArg Regs.pc live :), .of_decodeAt hd (zeroed.trans (frame.mono (List.subset_cons_self ..)))⟩

end Sys2Proof.Machine
end
